-- ==== Sys2Proof/Word.lean ====
section
/-! DEFINITION. The word types of the core (spec/00_scope.md R8, R9, R11): a Byte is 8 bits, a window register is a
32-bit Word, and the command word has 4-bit fields (R80). All are unsigned; nothing is ever sign-extended (R11). A state
matrix is 4x4 Bytes (R8, R12). -/

namespace Sys2Proof

/-- An 8-bit unsigned value (R8, R11). -/
abbrev Byte := BitVec 8

/-- A 4-bit field: OP and RSV0 of a command word (R80), ERR of STATUS (R29). -/
abbrev Nibble := BitVec 4

/-- A 32-bit unsigned value: the width of every window register and of the host bus (R9, R11). -/
abbrev Word := BitVec 32

namespace Machine

/-- One column of a 4x4 matrix of Bytes, rows 0 to 3 (R12). -/
structure Col where
  r0 : Byte
  r1 : Byte
  r2 : Byte
  r3 : Byte
deriving DecidableEq, Repr

/-- A 4x4 matrix of Bytes, columns 0 to 3 (R12, R61: column-major). -/
structure Mat where
  c0 : Col
  c1 : Col
  c2 : Col
  c3 : Col
deriving DecidableEq, Repr

end Machine

end Sys2Proof
end

