-- ==== Sys2Proof/Syntax.lean ====
section
/-! DEFINITION. What the core can be asked to do. `Access` is a host access as it arrives at the window (R50, R53);
`Instr` has one constructor per row of spec/opcode_table.json: the commands (R81), the two illegal-word rows (R86) and
the window accesses (R52). A command keeps both operand bytes, also where it ignores them (R83), and an illegal word keeps
every field, so that a word and its instruction determine each other. -/

namespace Sys2Proof

/-- The width of a host access. Only 32-bit accesses have a meaning (R53). -/
inductive Width where
  | byte
  | half
  | word
deriving DecidableEq, Repr

/-- A host access. `off` is the host address minus BASE, so it is negative below the window (R14, R53; LOG 12). -/
inductive Access where
  | read (width : Width) (off : Int)
  | write (width : Width) (off : Int) (data : Word)
deriving DecidableEq, Repr

/-- The word an access carries to the core; a read carries none. -/
def Access.data : Access → Word
  | .read _ _ => 0
  | .write _ _ v => v

/-- One constructor per row of spec/opcode_table.json. -/
inductive Instr where
  -- commands (R81): the operand bytes A and B of the word
  | nop (a b : Byte)
  | gfmul (a b : Byte)
  | sbox (a b : Byte)
  | isbox (a b : Byte)
  | subb (a b : Byte)
  | isubb (a b : Byte)
  | shr (a b : Byte)
  | ishr (a b : Byte)
  | mixc (a b : Byte)
  | imixc (a b : Byte)
  | ark (a b : Byte)
  | enc (a b : Byte)
  | dec (a b : Byte)
  | clrb (a b : Byte)
  | clrk (a b : Byte)
  -- illegal words (R84, R86)
  | reservedOp (a b : Byte)
  | reservedFields (rsv1 b a : Byte) (rsv0 op : Nibble)
  -- window accesses (R52); j and t are the word and the trace number, off the window offset
  | wrBlkData (v : Word)
  | wrKeyData (v : Word)
  | rdStatus
  | rdResult
  | rdCount
  | rdStateW (j : Fin 4)
  | rdTraceW (t j : Fin 4)
  | rdZero (off : Nat)
  | wrIgnored (off : Nat) (v : Word)
deriving DecidableEq, Repr

end Sys2Proof
end

