-- ==== Sys2Proof/WellFormed.lean ====
section
/-! DEFINITION. Which terms of `Instr` are instructions of the spec: an illegal word of the reserved-fields row has a
nonzero reserved field (R84), and the two catch-all window rows carry an offset of the set the spec gives them (R54, R55). -/

namespace Sys2Proof

/-- The offsets a read of which returns 0: write-only (0x00, 0x10, 0x14) and reserved (R54). -/
def zeroReadOffsets : List Nat :=
  [0x00, 0x10, 0x14, 0x18, 0x1C, 0x30, 0x34, 0x38, 0x3C]

/-- The offsets a write to which is ignored: read-only (0x04, 0x08, 0x0C, 0x20..0x2C, 0x40..0x7C) and reserved (R55). -/
def ignoredWriteOffsets : List Nat :=
  [0x04, 0x08, 0x0C, 0x18, 0x1C, 0x20, 0x24, 0x28, 0x2C, 0x30, 0x34, 0x38, 0x3C] ++
  [0x40, 0x44, 0x48, 0x4C, 0x50, 0x54, 0x58, 0x5C] ++
  [0x60, 0x64, 0x68, 0x6C, 0x70, 0x74, 0x78, 0x7C]

/-- A term of `Instr` that the spec's encoding can produce. -/
def Instr.wf : Instr → Bool
  | .reservedFields rsv1 _ _ rsv0 _ => rsv0 != 0 || rsv1 != 0
  | .rdZero off => zeroReadOffsets.contains off
  | .wrIgnored off _ => ignoredWriteOffsets.contains off
  | .nop _ _ => true
  | .gfmul _ _ => true
  | .sbox _ _ => true
  | .isbox _ _ => true
  | .subb _ _ => true
  | .isubb _ _ => true
  | .shr _ _ => true
  | .ishr _ _ => true
  | .mixc _ _ => true
  | .imixc _ _ => true
  | .ark _ _ => true
  | .enc _ _ => true
  | .dec _ _ => true
  | .clrb _ _ => true
  | .clrk _ _ => true
  | .reservedOp _ _ => true
  | .wrBlkData _ => true
  | .wrKeyData _ => true
  | .rdStatus => true
  | .rdResult => true
  | .rdCount => true
  | .rdStateW _ => true
  | .rdTraceW _ _ => true

end Sys2Proof
end

