-- ==== Sys2Proof/Decode.lean ====
section
/-! DEFINITION. From a host access to an instruction and back: the fields of a command word (R80), decoding of a command
word (R84, total by R85), decoding of a window access (R52 to R55), the encoder, and the reader of the opcode table's words. -/

namespace Sys2Proof

/-- Why a host access has no meaning (R53). -/
inductive DecodeError where
  | accessWidth
  | outsideWindow
  | misaligned
deriving DecidableEq, Repr

/-- OP, bits 3:0 (R80). -/
def opField (w : Word) : Nibble := w.extractLsb' 0 4

/-- RSV0, bits 7:4 (R80). -/
def rsv0Field (w : Word) : Nibble := w.extractLsb' 4 4

/-- Operand A, bits 15:8 (R80, R82). -/
def operandA (w : Word) : Byte := w.extractLsb' 8 8

/-- Operand B, bits 23:16 (R80, R82). -/
def operandB (w : Word) : Byte := w.extractLsb' 16 8

/-- RSV1, bits 31:24 (R80). -/
def rsv1Field (w : Word) : Byte := w.extractLsb' 24 8

/-- The legal command of an opcode, and the reserved opcode 0xF (R81). -/
def decodeOp (op : Nibble) (a b : Byte) : Instr :=
  match op.toNat with
  | 0x0 => .nop a b
  | 0x1 => .gfmul a b
  | 0x2 => .sbox a b
  | 0x3 => .isbox a b
  | 0x4 => .subb a b
  | 0x5 => .isubb a b
  | 0x6 => .shr a b
  | 0x7 => .ishr a b
  | 0x8 => .mixc a b
  | 0x9 => .imixc a b
  | 0xA => .ark a b
  | 0xB => .enc a b
  | 0xC => .dec a b
  | 0xD => .clrb a b
  | 0xE => .clrk a b
  | _ => .reservedOp a b

/-- The decoder of PEND (R84): the reserved fields first, then the opcode. Total on every word (R85). -/
def decodeCmd (w : Word) : Instr :=
  if rsv0Field w ≠ 0 ∨ rsv1Field w ≠ 0 then
    .reservedFields (rsv1Field w) (operandB w) (operandA w) (rsv0Field w) (opField w)
  else
    decodeOp (opField w) (operandA w) (operandB w)

/-- A 32-bit read at an aligned offset of the window (R52, R54). -/
def decodeRead (off : Nat) : Instr :=
  if off = 0x04 then .rdStatus
  else if off = 0x08 then .rdResult
  else if off = 0x0C then .rdCount
  else if 0x20 ≤ off ∧ off < 0x30 then .rdStateW (Fin.ofNat 4 ((off - 0x20) / 4))
  else if 0x40 ≤ off then .rdTraceW (Fin.ofNat 4 ((off - 0x40) / 16)) (Fin.ofNat 4 ((off - 0x40) / 4))
  else .rdZero off

/-- A 32-bit write at an aligned offset of the window (R52, R55). -/
def decodeWrite (off : Nat) (v : Word) : Instr :=
  if off = 0x00 then decodeCmd v
  else if off = 0x10 then .wrBlkData v
  else if off = 0x14 then .wrKeyData v
  else .wrIgnored off v

/-- The only accesses the core defines are 32 bits wide, inside the window and aligned (R53). -/
def checkAccess (width : Width) (off : Int) : Except DecodeError Nat :=
  if width ≠ .word then .error .accessWidth
  else if off < 0 ∨ 0x80 ≤ off then .error .outsideWindow
  else if off % 4 ≠ 0 then .error .misaligned
  else .ok off.toNat

/-- The instruction a host access stands for, or why it has none (R53). -/
def decode : Access → Except DecodeError Instr
  | .read width off =>
    match checkAccess width off with
    | .ok n => .ok (decodeRead n)
    | .error e => .error e
  | .write width off v =>
    match checkAccess width off with
    | .ok n => .ok (decodeWrite n v)
    | .error e => .error e

/-! ## Encoding -/

/-- A command word: `word = {RSV1, B, A, RSV0, OP}` (R80). -/
def packCmd (rsv1 b a : Byte) (rsv0 op : Nibble) : Word := rsv1 ++ b ++ a ++ rsv0 ++ op

/-- The word of a legal command, or of the reserved opcode (R89): the reserved fields are 0. -/
def cmdWord (op : Nibble) (a b : Byte) : Word := packCmd 0 b a 0 op

/-- The CMD word of a command or of an illegal word; a window access has none (R80, R81). -/
def Instr.commandWord? : Instr → Option Word
  | .nop a b => some (cmdWord 0x0 a b)
  | .gfmul a b => some (cmdWord 0x1 a b)
  | .sbox a b => some (cmdWord 0x2 a b)
  | .isbox a b => some (cmdWord 0x3 a b)
  | .subb a b => some (cmdWord 0x4 a b)
  | .isubb a b => some (cmdWord 0x5 a b)
  | .shr a b => some (cmdWord 0x6 a b)
  | .ishr a b => some (cmdWord 0x7 a b)
  | .mixc a b => some (cmdWord 0x8 a b)
  | .imixc a b => some (cmdWord 0x9 a b)
  | .ark a b => some (cmdWord 0xA a b)
  | .enc a b => some (cmdWord 0xB a b)
  | .dec a b => some (cmdWord 0xC a b)
  | .clrb a b => some (cmdWord 0xD a b)
  | .clrk a b => some (cmdWord 0xE a b)
  | .reservedOp a b => some (cmdWord 0xF a b)
  | .reservedFields rsv1 b a rsv0 op => some (packCmd rsv1 b a rsv0 op)
  | .wrBlkData _ => none
  | .wrKeyData _ => none
  | .rdStatus => none
  | .rdResult => none
  | .rdCount => none
  | .rdStateW _ => none
  | .rdTraceW _ _ => none
  | .rdZero _ => none
  | .wrIgnored _ _ => none

/-- An instruction that is started by a CMD write and has its effect at completion (R35, R56). -/
def Instr.isCommand (i : Instr) : Bool := i.commandWord?.isSome

/-- The host access of an instruction (R52, R80). -/
def encode (i : Instr) : Access :=
  match i with
  | .wrBlkData v => .write .word 0x10 v
  | .wrKeyData v => .write .word 0x14 v
  | .rdStatus => .read .word 0x04
  | .rdResult => .read .word 0x08
  | .rdCount => .read .word 0x0C
  | .rdStateW j => .read .word (0x20 + 4 * (j.val : Int))
  | .rdTraceW t j => .read .word (0x40 + 16 * (t.val : Int) + 4 * (j.val : Int))
  | .rdZero off => .read .word (off : Int)
  | .wrIgnored off v => .write .word (off : Int) v
  | i => .write .word 0x00 (i.commandWord?.getD 0)

/-! ## The opcode table's words -/

/-- The access an opcode-table word stands for (LOG 13). The table gives a command its 32-bit word, and a window access
the offset alone, which is at most 8 bits: the loaders' offsets 0x10 and 0x14 are writes, any other offset a read, and a
data word that the table gives no bits is 0. The reserved opcode's row gives its low bits only; 0x0F is no aligned
offset. -/
def tableAccess (nbits w : Nat) : Access :=
  if 8 < nbits ∨ w % 4 ≠ 0 then .write .word 0x00 (BitVec.ofNat 32 w)
  else if w = 0x10 ∨ w = 0x14 then .write .word (w : Int) 0
  else .read .word (w : Int)

/-- The instruction the decoder reads from an opcode-table word. -/
def decodeTableWord (nbits w : Nat) : Option Instr :=
  match decode (tableAccess nbits w) with
  | .ok i => some i
  | .error _ => none

end Sys2Proof
end

