-- ==== Sys2Proof/Config.lean ====
section
/-! DEFINITION. What an implementation fixes (the parameters of 00_scope.md R10) and the free values of the spec
(93_implementation_defined.md U2, U3). Nothing here has a value a proof can see. N_INST is the length of
`Machine.System.insts`. -/

namespace Sys2Proof

/-- Everything a command's effect can depend on beside the tables: its word, with A and B (R82), and the registers that
state commands operate on, with their counts (R36, R231). -/
structure CommandOperands where
  word : Word
  block : Machine.Mat
  key : Machine.Mat
  blkCnt : BitVec 5
  keyCnt : BitVec 5
deriving DecidableEq, Repr

/-- The parameters of one instance (R10). They are constant for its life (R262). -/
structure Config where
  /-- BASE: the host address of window offset 0 (R10, R71). -/
  base : Nat
  /-- SBOX: the forward table, entry x at index x (R10, R28). -/
  sbox : List Byte
  /-- LAT for the listed operands (R10: it may differ per opcode and per operand value; LOG 5). There are finitely many
  operands, so every function of them is such a table. -/
  lat : List (CommandOperands × Nat)
  /-- LAT for all other operands. -/
  latDefault : Nat
  /-- INIT_CYCLES (R10, R261). -/
  initCycles : Nat
deriving DecidableEq, Repr, Inhabited

/-- The parameters of the instance that `Machine.State.reset` starts: left open (R10; LOG 4). -/
opaque Config.machine : Config

/-- The word a read of RESULT, COUNT, STATE_Wj or TRACEt_Wj returns while BUSY = 1, a draw per read (R59, U2), for the
instance at a base address and its n-th draw (LOG 6). -/
opaque Config.busyRead : Nat → Nat → Word

/-- What PEND holds after reset and after a command has ended (R260, U3; LOG 7). -/
opaque Config.pendValue : Nat → Nat → Word

/-- What a lookup gives where the table has no entry for it. Only a table that is no bijection has such a lookup, and
such a configuration is refused (R127; LOG 9). -/
opaque Config.noEntry : Byte → Byte

end Sys2Proof
end

