-- ==== Sys2Proof/Machine/State.lean ====
section
/-! DEFINITION. Everything the spec gives one instance of the core (10_state.md), as plain data, and its value after
reset (70_reset_and_hazards.md R260). -/

namespace Sys2Proof.Machine

/-- Four 0x00 bytes. -/
def Col.zero : Col := ⟨0, 0, 0, 0⟩

/-- Sixteen 0x00 bytes (R260). -/
def Mat.zero : Mat := ⟨.zero, .zero, .zero, .zero⟩

/-- PHASE (R35). -/
inductive Phase where
  | init
  | idle
  | run
deriving DecidableEq, Repr

/-- What happens next to the instance from outside (R50, R260), or a move of the core (R35): see `State.inputs`. -/
inductive Input where
  /-- Host agent `agent` performs one access (R50, R64). -/
  | access (agent : Nat) (a : Access)
  /-- The reset input is asserted (R260). -/
  | reset
  /-- The core takes one phase transition or lets one clock cycle pass (R35). -/
  | core
deriving DecidableEq, Repr

/-- One instance of the core. The first group of fields is the spec's; the last four are the model's own. -/
structure State where
  /-- The parameters, constant (R10, R28, R262). -/
  cfg : Config
  /-- STATE (R22). -/
  block : Mat
  /-- KEY (R23). -/
  key : Mat
  /-- BLK_CNT (R24). -/
  blkCnt : BitVec 5
  /-- KEY_CNT (R25). -/
  keyCnt : BitVec 5
  /-- RESULT (R26). -/
  result : Byte
  /-- TRACE0 (R27). -/
  trace0 : Mat
  /-- TRACE1 (R27). -/
  trace1 : Mat
  /-- TRACE2 (R27). -/
  trace2 : Mat
  /-- TRACE3 (R27). -/
  trace3 : Mat
  /-- STATUS.OVF (R29). -/
  ovf : Bool
  /-- STATUS.ERR (R29, R30). -/
  err : Nibble
  /-- STATUS.LENB (R29). -/
  lenb : Bool
  /-- STATUS.LENK (R29). -/
  lenk : Bool
  /-- PHASE (R35). -/
  phase : Phase
  /-- PEND (R35); a free value outside RUN (U3). -/
  pend : Word
  /-- REM (R35). -/
  rem : Nat
  /-- How many free values have been drawn (LOG 6, LOG 7). -/
  draws : Nat
  /-- The one host agent of this instance, once it has made an access (R67; LOG 11). -/
  owner : Option Nat
  /-- What happens next, oldest first; when it is empty, the core moves (LOG 1). -/
  inputs : List Input
  /-- The words host reads have returned, newest first. -/
  hostReads : List Word
deriving DecidableEq, Repr

/-- Why the machine stops with a fault. -/
inductive Fault where
  /-- Raised by rd_STATUS when STATUS.ERR holds one of the reserved codes 3 to 15: "a model that reads one has found a
  fault in the implementation and must treat it as a fault" (R30, R240). Safe. No step from a state with ERR at most 2
  leads to such a state. -/
  | reservedErrCode
  /-- Raised by the host layer (Machine/HostProgram.lean) when an `expect` statement does not hold (R90). Never raised by
  `step`. Safe. -/
  | hostExpectFailed
deriving DecidableEq, Repr

/-- Why a step has no meaning. -/
inductive Refusal where
  /-- An instruction without a meaning yet, by its mnemonic. Raised by a refused arm of `exec` only; there is none. -/
  | notModelled (mnemonic : String)
  /-- Raised by a host access of 8 or 16 bits (R53, U1). Safe. -/
  | accessWidth
  /-- Raised by a host access outside the 0x80-byte window, and by an access by host address that lies in no window of a
  system (`systemIssue`) (R53, U1). Safe. -/
  | outsideWindow
  /-- Raised by a host access at an offset that is no multiple of 4 (R53, U1). Safe. -/
  | misaligned
  /-- Raised by a host access of a second agent (R67, U13). Safe. -/
  | secondHost
  /-- Raised by the core's move that ends the initialisation period when SBOX is not a bijection (R127, U10). Safe. -/
  | sboxNotBijective
  /-- Raised by the host layer when a `bnz` names a label its program does not have. Never raised by `step`. Safe. -/
  | noLabel
  /-- Raised by the host layer when a `bnz` or `expect` uses a variable that no `rd` has set. Never raised by `step`. Safe. -/
  | unsetVariable
deriving DecidableEq, Repr

/-- An instance with parameters `c` right after reset (R260), `draws` free values having been drawn before and the
model's own fields as given. PEND is unspecified: a free value. -/
def State.resetWith (c : Config) (draws : Nat) (owner : Option Nat) (inputs : List Input) (hostReads : List Word) :
    State :=
  { cfg := c, block := .zero, key := .zero, blkCnt := 0, keyCnt := 0, result := 0
    trace0 := .zero, trace1 := .zero, trace2 := .zero, trace3 := .zero
    ovf := false, err := 0, lenb := false, lenk := false
    phase := .init, pend := Config.pendValue c.base draws, rem := c.initCycles
    draws := draws + 1, owner := owner, inputs := inputs, hostReads := hostReads }

/-- The machine right after power-on (R260), with the open parameters `Config.machine` (R10; LOG 4) and nothing placed
in the model's own fields (LOG 10). -/
def State.reset : State := State.resetWith Config.machine 0 none [] []

end Sys2Proof.Machine
end

