-- ==== Sys2Proof/Machine/Flags.lean ====
section
/-! DEFINITION. The STATUS fields and the COUNT view (R29, R31, R34, R152, R155), and the length conditions that commands
check (R231). -/

namespace Sys2Proof.Machine

/-- STATUS.BUSY: 1 exactly when PHASE is INIT or RUN (R35). -/
def State.busy (s : State) : Bool :=
  match s.phase with
  | .init => true
  | .idle => false
  | .run => true

/-- BLK_CNT != 16 (R231). -/
def blockLengthWrong (s : State) : Bool := s.blkCnt != 16

/-- KEY_CNT != 16 (R231). -/
def keyLengthWrong (s : State) : Bool := s.keyCnt != 16

/-- What a read of STATUS shows: `{22'b0, LENK, LENB, ERR, 2'b0, OVF, BUSY}` (R152). -/
def statusWord (s : State) : Word :=
  0#22 ++ BitVec.ofBool s.lenk ++ BitVec.ofBool s.lenb ++ s.err ++ 0#2 ++ BitVec.ofBool s.ovf ++ BitVec.ofBool s.busy

/-- What a read of COUNT shows: `{19'b0, KEY_CNT, 3'b0, BLK_CNT}` (R31, R155). -/
def countWord (s : State) : Word := 0#19 ++ s.keyCnt ++ 0#3 ++ s.blkCnt

/-- STATUS.ERR = OK (R30). -/
def errOk : Nibble := 0

/-- STATUS.ERR = INVALID_LENGTH (R30). -/
def errInvalidLength : Nibble := 1

/-- STATUS.ERR = ILLEGAL_COMMAND (R30). -/
def errIllegalCommand : Nibble := 2

/-- ERR holds a code of R30 that the hardware never produces. -/
def errReserved (s : State) : Bool := decide (3 ≤ s.err.toNat)

end Sys2Proof.Machine
end

