-- ==== Sys2Proof/Machine/Matrix.lean ====
section
/-! DEFINITION. The 4x4 matrix of Bytes by row and column (R12), by flat index (R12, R61), `make_state` and `flatten`
(R142, R150, R156), and the little-endian packing of a column in a window word (R62). -/

namespace Sys2Proof.Machine

/-- The byte in row r of a column. -/
def Col.get (x : Col) (r : Fin 4) : Byte :=
  match r with
  | 0 => x.r0
  | 1 => x.r1
  | 2 => x.r2
  | 3 => x.r3

/-- The column whose byte in row r is f r. -/
def Col.ofFn (f : Fin 4 → Byte) : Col := ⟨f 0, f 1, f 2, f 3⟩

/-- `Col(S, c)` (R12). -/
def Mat.col (S : Mat) (c : Fin 4) : Col :=
  match c with
  | 0 => S.c0
  | 1 => S.c1
  | 2 => S.c2
  | 3 => S.c3

/-- The matrix whose column c is f c. -/
def Mat.ofCols (f : Fin 4 → Col) : Mat := ⟨f 0, f 1, f 2, f 3⟩

/-- `S[r][c]` (R12). -/
def Mat.get (S : Mat) (r c : Fin 4) : Byte := (S.col c).get r

/-- The matrix with `S[r][c] = f r c`. -/
def Mat.ofFn (f : Fin 4 → Fin 4 → Byte) : Mat := .ofCols fun c => .ofFn fun r => f r c

/-- `S[r][c] <- v`. -/
def Mat.set (S : Mat) (r c : Fin 4) (v : Byte) : Mat :=
  .ofFn fun r' c' => if r' = r ∧ c' = c then v else S.get r' c'

/-- Row of flat index i: i mod 4 (R12). -/
def flatRow (i : Nat) : Fin 4 := Fin.ofNat 4 i

/-- Column of flat index i: i div 4 (R12). -/
def flatCol (i : Nat) : Fin 4 := Fin.ofNat 4 (i / 4)

/-- Byte i of the 16-byte sequence: `S[i mod 4][i div 4]` (R61). -/
def Mat.flat (S : Mat) (i : Nat) : Byte := S.get (flatRow i) (flatCol i)

/-- `make_state(b)`: column-major, column 0 = bytes 0 to 3 (R12, R61). Bytes past the end of b are 0x00, as in a partly
loaded register after CLRB (R37). -/
def makeState (b : List Byte) : Mat := .ofFn fun r c => b.getD (r.val + 4 * c.val) 0

/-- `flatten(S)`: the 16 bytes, column-major (R61). -/
def flatten (S : Mat) : List Byte := (List.range 16).map S.flat

/-- The window word of a column: `{S[3][j], S[2][j], S[1][j], S[0][j]}` (R62). -/
def packCol (x : Col) : Word := x.r3 ++ x.r2 ++ x.r1 ++ x.r0

end Sys2Proof.Machine
end

