-- ==== Sys2Proof/Machine/Operands.lean ====
section
/-! DEFINITION. The operand forms of the window accesses: the byte of a loader write and the place it goes to (R33, R140,
R141), and the words the read registers show (R26, R62). The operand bytes A and B of a command are fields of its word,
which Decode.lean takes (R82); `operandsOf` gathers all that its latency may depend on (R10). -/

namespace Sys2Proof.Machine

/-- What LAT is applied to: the command's word and the registers that state commands operate on (R82, R36). R10 lets LAT
differ per operand value and does not say whether the latency of a command without a STATE or KEY operand (NOP, GFMUL, an
illegal word) may depend on them, nor whether LAT may depend on an A or B field that the command ignores (R83); here the
whole word, STATE, KEY and the counts are passed for every command (DESIGN CHOICE, LOG 5). -/
def operandsOf (v : Word) (s : State) : CommandOperands where
  word := v
  block := s.block
  key := s.key
  blkCnt := s.blkCnt
  keyCnt := s.keyCnt

/-- The byte delivered by a write of BLK_DATA or KEY_DATA: bits 7:0; bits 31:8 are ignored (R33). -/
def dataByte (v : Word) : Byte := v.extractLsb' 0 8

/-- The row a loaded byte goes to: count mod 4 (R140). -/
def loadRow (cnt : BitVec 5) : Fin 4 := flatRow cnt.toNat

/-- The column a loaded byte goes to: count div 4 (R140). -/
def loadCol (cnt : BitVec 5) : Fin 4 := flatCol cnt.toNat

/-- A loader: below 16 the byte goes to the place the count selects, from 16 on it is discarded (R140, R141). -/
def loadByte (S : Mat) (cnt : BitVec 5) (d : Byte) : Mat :=
  if cnt.toNat < 16 then S.set (loadRow cnt) (loadCol cnt) d else S

/-- A loader's counter counts every accepted byte and saturates at 31 (R24, R140). -/
def countByte (cnt : BitVec 5) : BitVec 5 := if cnt.toNat < 31 then cnt + 1 else cnt

/-- What a read of RESULT shows: `zext_32(RESULT)` (R154). -/
def resultWord (s : State) : Word := s.result.setWidth 32

/-- TRACEt (R27). -/
def traceReg (s : State) (t : Fin 4) : Mat :=
  match t with
  | 0 => s.trace0
  | 1 => s.trace1
  | 2 => s.trace2
  | 3 => s.trace3

/-- What a read of STATE_Wj shows (R150). -/
def stateWord (s : State) (j : Fin 4) : Word := packCol (s.block.col j)

/-- What a read of TRACEt_Wj shows (R151). -/
def traceWord (s : State) (t j : Fin 4) : Word := packCol ((traceReg s t).col j)

end Sys2Proof.Machine
end

