-- ==== Sys2Proof/Machine/Gf.lean ====
section
/-! DEFINITION. The GF(2^8) multiplier (40_gf_mul.md R100). -/

namespace Sys2Proof.Machine

/-- The reduction constant 0x1B, the polynomial x^8+x^4+x^3+x+1 with its x^8 term dropped (R100). -/
def reduction : Byte := 0x1B

/-- The shift of `a` in one iteration (R100): left by one bit, masked to 8 bits, reduced if bit 7 was set. -/
def xtime (a : Byte) : Byte := if a.getLsbD 7 then (a <<< 1) ^^^ reduction else a <<< 1

/-- n iterations of the loop of R100 from accumulator p, shifted operand a and scanned operand b. -/
def gfLoop : Nat → Byte → Byte → Byte → Byte
  | 0, p, _, _ => p
  | n + 1, p, a, b => gfLoop n (if b.getLsbD 0 then p ^^^ a else p) (xtime a) (b >>> 1)

/-- `gf_mul(a, b)`: eight iterations from accumulator 0 (R100). -/
def gfMul (a b : Byte) : Byte := gfLoop 8 0 a b

end Sys2Proof.Machine
end

