-- ==== Sys2Proof/Machine/Transforms.lean ====
section
/-! DEFINITION. The stage functions of the core as functions of a matrix value: `sub`, `isub` (R124, R125), `ark` (R170),
`shr`, `ishr` (R180, R181), `mix`, `imix` (R190 to R193), and the two pipelines' stage values (R210, R211). -/

namespace Sys2Proof.Machine

/-- `sub_bytes`: every byte through SBOX (R124). -/
def subBytes (T : List Byte) (S : Mat) : Mat := .ofFn fun r c => sboxAt T (S.get r c)

/-- `inv_sub_bytes`: every byte through INV_SBOX (R125). -/
def invSubBytes (T : List Byte) (S : Mat) : Mat := .ofFn fun r c => invSboxAt T (S.get r c)

/-- `add_round_key`: element-wise XOR (R170). -/
def addRoundKey (S K : Mat) : Mat := .ofFn fun r c => S.get r c ^^^ K.get r c

/-- `shift_rows`: row r rotated left by r; `T[r][(c + r) mod 4]` (R180). -/
def shiftRows (S : Mat) : Mat := .ofFn fun r c => S.get r (c + r)

/-- `inv_shift_rows`: row r rotated right by r; `T[r][(c - r) mod 4]` (R181). -/
def invShiftRows (S : Mat) : Mat := .ofFn fun r c => S.get r (c - r)

/-- `mix_col` (R190): 2 and 3 are field products, factor 1 is plain XOR. -/
def mixCol (x : Col) : Col where
  r0 := gfMul x.r0 0x02 ^^^ gfMul x.r1 0x03 ^^^ x.r2 ^^^ x.r3
  r1 := x.r0 ^^^ gfMul x.r1 0x02 ^^^ gfMul x.r2 0x03 ^^^ x.r3
  r2 := x.r0 ^^^ x.r1 ^^^ gfMul x.r2 0x02 ^^^ gfMul x.r3 0x03
  r3 := gfMul x.r0 0x03 ^^^ x.r1 ^^^ x.r2 ^^^ gfMul x.r3 0x02

/-- `inv_mix_col` (R191). -/
def invMixCol (x : Col) : Col where
  r0 := gfMul x.r0 0x0E ^^^ gfMul x.r1 0x0B ^^^ gfMul x.r2 0x0D ^^^ gfMul x.r3 0x09
  r1 := gfMul x.r0 0x09 ^^^ gfMul x.r1 0x0E ^^^ gfMul x.r2 0x0B ^^^ gfMul x.r3 0x0D
  r2 := gfMul x.r0 0x0D ^^^ gfMul x.r1 0x09 ^^^ gfMul x.r2 0x0E ^^^ gfMul x.r3 0x0B
  r3 := gfMul x.r0 0x0B ^^^ gfMul x.r1 0x0D ^^^ gfMul x.r2 0x09 ^^^ gfMul x.r3 0x0E

/-- `mix_columns`: each column on its own (R192). -/
def mixColumns (S : Mat) : Mat := .ofCols fun c => mixCol (S.col c)

/-- `inv_mix_columns` (R193). -/
def invMixColumns (S : Mat) : Mat := .ofCols fun c => invMixCol (S.col c)

/-- The states after the four stages of a pipeline (R210, R211). -/
structure Stages where
  s0 : Mat
  s1 : Mat
  s2 : Mat
  s3 : Mat
deriving DecidableEq, Repr

/-- `encrypt`: AddRoundKey, SubBytes, ShiftRows, MixColumns (R210). -/
def encStages (T : List Byte) (S K : Mat) : Stages :=
  let s0 := addRoundKey S K
  let s1 := subBytes T s0
  let s2 := shiftRows s1
  let s3 := mixColumns s2
  { s0 := s0, s1 := s1, s2 := s2, s3 := s3 }

/-- `decrypt`: InvMixColumns, InvShiftRows, InvSubBytes, AddRoundKey (R211). -/
def decStages (T : List Byte) (S K : Mat) : Stages :=
  let s0 := invMixColumns S
  let s1 := invShiftRows s0
  let s2 := invSubBytes T s1
  let s3 := addRoundKey s2 K
  { s0 := s0, s1 := s1, s2 := s2, s3 := s3 }

end Sys2Proof.Machine
end

