-- ==== Sys2Proof/Machine/Ops.lean ====
section
/-! DEFINITION. The operations the meanings share: a command's end, successful or by `raise` (R233, R235), the length
checks, the host's reads and writes of the window (R56 to R60), and reset (R260). `raise` is the whole of exception entry
on this core: it has no traps and no return (R230, R242, R243). -/

namespace Sys2Proof.Machine

/-- The outcome of a step of the core. -/
abbrev Result := Host.Outcome State Fault Refusal

/-- The end of a command: the outcome fields are written, exactly once, and PHASE returns to IDLE (R235, R233). PEND is
valid in RUN only, so it becomes a free value (R35, U3). -/
def finish (err : Nibble) (lenb lenk : Bool) (s : State) : State :=
  { s with
    err := err, lenb := lenb, lenk := lenk
    phase := .idle
    pend := Config.pendValue s.cfg.base s.draws, draws := s.draws + 1 }

/-- A command that succeeds: `STATUS.ERR <- 0 ; STATUS.LENB <- 0 ; STATUS.LENK <- 0` (R235). -/
def succeed (s : State) : State := finish errOk false false s

/-- `raise InvalidLength(lenb, lenk)` (R231, R233). -/
def raiseInvalidLength (lenb lenk : Bool) (s : State) : State := finish errInvalidLength lenb lenk s

/-- `raise IllegalCommand()` (R232, R233). -/
def raiseIllegalCommand (s : State) : State := finish errIllegalCommand false false s

/-- A command that checks the block length before its effect `f` (R124, R231). -/
def checkBlock (f : State → State) (s : State) : Result :=
  if blockLengthWrong s then .next (raiseInvalidLength true false s) else .next (succeed (f s))

/-- A command that checks both lengths before its effect `f`, and names every wrong one (R170, R231, R236). -/
def checkBlockAndKey (f : State → State) (s : State) : Result :=
  if blockLengthWrong s || keyLengthWrong s then
    .next (raiseInvalidLength (blockLengthWrong s) (keyLengthWrong s) s)
  else .next (succeed (f s))

/-- The effect of a single-stage state command: STATE <- f STATE. -/
def onBlock (f : Mat → Mat) (s : State) : State := { s with block := f s.block }

/-- The effect of a pipeline: the four stage states to TRACE0..TRACE3 and the last one to STATE (R210, R211). -/
def putStages (g : Stages) (s : State) : State :=
  { s with trace0 := g.s0, trace1 := g.s1, trace2 := g.s2, trace3 := g.s3, block := g.s3 }

/-- The effect of a scalar command: RESULT <- v (R26). -/
def putResult (v : Byte) (s : State) : State := { s with result := v }

/-- CLRB's effect (R144). -/
def clearBlock (s : State) : State := { s with block := .zero, blkCnt := 0 }

/-- CLRK's effect (R145). -/
def clearKey (s : State) : State := { s with key := .zero, keyCnt := 0 }

/-- A write of CMD, BLK_DATA or KEY_DATA while BUSY = 1 is dropped: only OVF is set (R58). -/
def dropWrite (s : State) : State := { s with ovf := true }

/-- A write of BLK_DATA while BUSY = 0 (R140). -/
def loadBlock (v : Word) (s : State) : State :=
  { s with block := loadByte s.block s.blkCnt (dataByte v), blkCnt := countByte s.blkCnt }

/-- A write of KEY_DATA while BUSY = 0 (R141). -/
def loadKey (v : Word) (s : State) : State :=
  { s with key := loadByte s.key s.keyCnt (dataByte v), keyCnt := countByte s.keyCnt }

/-- The core latches a command: PEND <- v, REM <- LAT of its operands, PHASE <- RUN (R35, R56, R10). -/
def startCmd (v : Word) (s : State) : State :=
  { s with pend := v, rem := latency s.cfg (operandsOf v s), phase := .run }

/-- A host write of CMD: accepted while BUSY = 0, dropped while BUSY = 1 (R56, R58). -/
def acceptCmd (v : Word) (s : State) : State := if s.busy then dropWrite s else startCmd v s

/-- A host read returns w; no state of the core changes (R60). -/
def deliver (w : Word) (s : State) : State := { s with hostReads := w :: s.hostReads }

/-- A host read returns an unspecified word, one draw per read (R59, U2). -/
def deliverUnspecified (s : State) : State :=
  { s with hostReads := Config.busyRead s.cfg.base s.draws :: s.hostReads, draws := s.draws + 1 }

/-- A host read of RESULT, COUNT, STATE_Wj or TRACEt_Wj: its value while BUSY = 0, any word while BUSY = 1 (R59). The spec
leaves open whether the reserved bits of RESULT and COUNT read 0 while BUSY = 1 too (R54 names no BUSY, R59 frees the
whole Word); here all 32 bits are free then (DESIGN CHOICE, LOG 6). -/
def readRegister (w : Word) (s : State) : State := if s.busy then deliverUnspecified s else deliver w s

/-- Reset (R260): every register to its reset value, a running command abandoned, the parameters and the model's own
fields kept (LOG 10). -/
def resetCore (s : State) : State := State.resetWith s.cfg s.draws s.owner s.inputs s.hostReads

end Sys2Proof.Machine
end

