-- ==== Sys2Proof/Machine/Bus.lean ====
section
/-! DEFINITION. The host accesses of the window other than a write of CMD: the loader writes (R140, R141), the reads (R150
to R155), the reads that return 0 (R54) and the writes that are ignored (R55). -/

namespace Sys2Proof.Machine

/-- wr BLK_DATA (R140; dropped while BUSY = 1, R58). -/
def execWrBlkData (v : Word) (s : State) : Result := .next (if s.busy then dropWrite s else loadBlock v s)

/-- wr KEY_DATA (R141; dropped while BUSY = 1, R58). -/
def execWrKeyData (v : Word) (s : State) : Result := .next (if s.busy then dropWrite s else loadKey v s)

/-- rd STATUS (R152): at any time, also while BUSY = 1 (R59). A reserved ERR code is a fault (R30). -/
def execRdStatus (s : State) : Result :=
  if errReserved s then .fault .reservedErrCode else .next (deliver (statusWord s) s)

/-- rd RESULT (R154). -/
def execRdResult (s : State) : Result := .next (readRegister (resultWord s) s)

/-- rd COUNT (R155). -/
def execRdCount (s : State) : Result := .next (readRegister (countWord s) s)

/-- rd STATE_Wj (R150). -/
def execRdStateW (j : Fin 4) (s : State) : Result := .next (readRegister (stateWord s j) s)

/-- rd TRACEt_Wj (R151). -/
def execRdTraceW (t j : Fin 4) (s : State) : Result := .next (readRegister (traceWord s t j) s)

/-- A read at a reserved or write-only offset returns 0x00000000 (R54), also while BUSY = 1 (LOG 8). -/
def execRdZero (_off : Nat) (s : State) : Result := .next (deliver 0 s)

/-- A write at a read-only or reserved offset changes no state (R55). -/
def execWrIgnored (_off : Nat) (_v : Word) (s : State) : Result := .next s

end Sys2Proof.Machine
end

