-- ==== Sys2Proof/Machine/Housekeeping.lean ====
section
/-! DEFINITION. NOP, CLRB, CLRK (42_state_construction.md section 2) and the illegal words (R86), at completion. -/

namespace Sys2Proof.Machine

/-- NOP (R143): only the outcome fields. -/
def execNop (_a _b : Byte) (s : State) : Result := .next (succeed s)

/-- CLRB (R144): STATE <- 0, BLK_CNT <- 0. -/
def execClrb (_a _b : Byte) (s : State) : Result := .next (succeed (clearBlock s))

/-- CLRK (R145): KEY <- 0, KEY_CNT <- 0. -/
def execClrk (_a _b : Byte) (s : State) : Result := .next (succeed (clearKey s))

/-- A word with the reserved opcode 0xF (R86). -/
def execReservedOp (_a _b : Byte) (s : State) : Result := .next (raiseIllegalCommand s)

/-- A word with a nonzero reserved field (R86), whatever its opcode. -/
def execReservedFields (_rsv1 _b _a : Byte) (_rsv0 _op : Nibble) (s : State) : Result :=
  .next (raiseIllegalCommand s)

end Sys2Proof.Machine
end

