-- ==== Sys2Proof/Machine/Pipeline.lean ====
section
/-! DEFINITION. The round pipelines ENC (R210) and DEC (R211), at completion: STATE and TRACE change all at once (R214). -/

namespace Sys2Proof.Machine

/-- ENC (R210). -/
def execEnc (_a _b : Byte) (s : State) : Result :=
  checkBlockAndKey (putStages (encStages s.cfg.sbox s.block s.key)) s

/-- DEC (R211). -/
def execDec (_a _b : Byte) (s : State) : Result :=
  checkBlockAndKey (putStages (decStages s.cfg.sbox s.block s.key)) s

end Sys2Proof.Machine
end

