-- ==== Sys2Proof/Machine/Scalar.lean ====
section
/-! DEFINITION. The scalar commands GFMUL (R101), SBOX (R122) and ISBOX (R123), at completion. No length check. -/

namespace Sys2Proof.Machine

/-- GFMUL (R101): RESULT <- gf_mul(A, B). -/
def execGfmul (a b : Byte) (s : State) : Result := .next (succeed (putResult (gfMul a b) s))

/-- SBOX (R122): RESULT <- SBOX[A]; B is ignored. -/
def execSbox (a _b : Byte) (s : State) : Result := .next (succeed (putResult (sboxAt s.cfg.sbox a) s))

/-- ISBOX (R123): RESULT <- INV_SBOX[A]; B is ignored. -/
def execIsbox (a _b : Byte) (s : State) : Result := .next (succeed (putResult (invSboxAt s.cfg.sbox a) s))

end Sys2Proof.Machine
end

