-- ==== Sys2Proof/Machine/Stage.lean ====
section
/-! DEFINITION. The single-stage state commands SUBB, ISUBB (R124, R125), SHR, ISHR (R180, R181), MIXC, IMIXC (R192, R193)
and ARK (R170), at completion. A and B are ignored (R83). -/

namespace Sys2Proof.Machine

/-- SUBB (R124). -/
def execSubb (_a _b : Byte) (s : State) : Result := checkBlock (onBlock (subBytes s.cfg.sbox)) s

/-- ISUBB (R125). -/
def execIsubb (_a _b : Byte) (s : State) : Result := checkBlock (onBlock (invSubBytes s.cfg.sbox)) s

/-- SHR (R180). -/
def execShr (_a _b : Byte) (s : State) : Result := checkBlock (onBlock shiftRows) s

/-- ISHR (R181). -/
def execIshr (_a _b : Byte) (s : State) : Result := checkBlock (onBlock invShiftRows) s

/-- MIXC (R192). -/
def execMixc (_a _b : Byte) (s : State) : Result := checkBlock (onBlock mixColumns) s

/-- IMIXC (R193). -/
def execImixc (_a _b : Byte) (s : State) : Result := checkBlock (onBlock invMixColumns) s

/-- ARK (R170): checks both lengths; KEY is read only. -/
def execArk (_a _b : Byte) (s : State) : Result := checkBlockAndKey (onBlock (addRoundKey · s.key)) s

end Sys2Proof.Machine
end

