-- ==== Sys2Proof/Machine/Dispatch.lean ====
section
/-! DEFINITION. One arm per row of spec/opcode_table.json: of a command, its effect at completion (R35, R84); of a window
access, its effect. -/

namespace Sys2Proof.Machine

def exec (i : Instr) (s : State) : Host.Outcome State Fault Refusal :=
  match i with
  | .nop a b => Sys2Proof.Machine.execNop a b s
  | .gfmul a b => Sys2Proof.Machine.execGfmul a b s
  | .sbox a b => Sys2Proof.Machine.execSbox a b s
  | .isbox a b => Sys2Proof.Machine.execIsbox a b s
  | .subb a b => Sys2Proof.Machine.execSubb a b s
  | .isubb a b => Sys2Proof.Machine.execIsubb a b s
  | .shr a b => Sys2Proof.Machine.execShr a b s
  | .ishr a b => Sys2Proof.Machine.execIshr a b s
  | .mixc a b => Sys2Proof.Machine.execMixc a b s
  | .imixc a b => Sys2Proof.Machine.execImixc a b s
  | .ark a b => Sys2Proof.Machine.execArk a b s
  | .enc a b => Sys2Proof.Machine.execEnc a b s
  | .dec a b => Sys2Proof.Machine.execDec a b s
  | .clrb a b => Sys2Proof.Machine.execClrb a b s
  | .clrk a b => Sys2Proof.Machine.execClrk a b s
  | .reservedOp a b => Sys2Proof.Machine.execReservedOp a b s
  | .reservedFields rsv1 b a rsv0 op => Sys2Proof.Machine.execReservedFields rsv1 b a rsv0 op s
  | .wrBlkData v => Sys2Proof.Machine.execWrBlkData v s
  | .wrKeyData v => Sys2Proof.Machine.execWrKeyData v s
  | .rdStatus => Sys2Proof.Machine.execRdStatus s
  | .rdResult => Sys2Proof.Machine.execRdResult s
  | .rdCount => Sys2Proof.Machine.execRdCount s
  | .rdStateW j => Sys2Proof.Machine.execRdStateW j s
  | .rdTraceW t j => Sys2Proof.Machine.execRdTraceW t j s
  | .rdZero off => Sys2Proof.Machine.execRdZero off s
  | .wrIgnored off v => Sys2Proof.Machine.execWrIgnored off v s

end Sys2Proof.Machine
end

