-- ==== Sys2Proof/Machine/Agents.lean ====
section
/-! DEFINITION. What each agent does in its step: the core's phase transitions (R35), a host access (R50 to R60), an
assertion of reset (R260), and which of them comes next. -/

namespace Sys2Proof.Machine

/-- A move of the core (R35): with REM > 0 a clock cycle passes; at REM = 0 the initialisation period ends (R261), or the
pending command has its effect (R84). A table that is no bijection is refused at the end of the initialisation period, the
moment its inverse must exist (R120, R127; LOG 9). In IDLE nothing happens. -/
def coreMove (s : State) : Result :=
  match s.phase with
  | .idle => .next s
  | .init =>
    match s.rem with
    | 0 => if sboxBijective s.cfg.sbox then .next { s with phase := .idle } else .refused .sboxNotBijective
    | n + 1 => .next { s with rem := n }
  | .run =>
    match s.rem with
    | 0 => exec (decodeCmd s.pend) s
    | n + 1 => .next { s with rem := n }

/-- The refusal of an access that has no meaning (R53). -/
def accessRefusal : DecodeError → Refusal
  | .accessWidth => .accessWidth
  | .outsideWindow => .outsideWindow
  | .misaligned => .misaligned

/-- A host access (R50, R53): a write of CMD starts a command or is dropped (R56, R58); every other access has its effect
at once (R57, R59). -/
def hostAccess (a : Access) (s : State) : Result :=
  match decode a with
  | .error e => .refused (accessRefusal e)
  | .ok i => if i.isCommand then .next (acceptCmd a.data s) else exec i s

/-- The instance may be used by this host agent: by the one that has used it before, or by any while none has (R67). -/
def mayAccess (s : State) (agent : Nat) : Bool :=
  match s.owner with
  | none => true
  | some h => h == agent

/-- One input is taken: an access of the one host (R67), an assertion of reset (R260), or a move of the core. -/
def takeInput (i : Input) (s : State) : Result :=
  match i with
  | .access agent a =>
    if mayAccess s agent then hostAccess a { s with owner := some agent } else .refused .secondHost
  | .reset => .next (resetCore s)
  | .core => coreMove s

/-- The next thing that happens: the oldest input, or a move of the core when there is none (LOG 1). -/
def advance (s : State) : Result :=
  match s.inputs with
  | [] => coreMove s
  | i :: rest => takeInput i { s with inputs := rest }

/-- The state in which the next thing that happens is the instruction of a given access: for a command its completion, its
word in PEND with no cycle left (R35); for any other access, the access as the next input (LOG 2). -/
def placeNext (a : Access) (s : State) : State :=
  match decode a with
  | .ok i =>
    if i.isCommand then
      { s with pend := a.data, phase := .run, rem := 0, inputs := .core :: s.inputs }
    else { s with inputs := .access (s.owner.getD 0) a :: s.inputs }
  | .error _ => { s with inputs := .access (s.owner.getD 0) a :: s.inputs }

end Sys2Proof.Machine
end

