-- ==== Sys2Proof/Machine/Step.lean ====
section
/-! DEFINITION. One step of the machine, and the placing of an opcode-table word where the next step runs it (LOG 2). -/

namespace Sys2Proof.Machine

/-- One step: `advance`. -/
def step (s : State) : Host.Outcome State Fault Refusal := advance s

/-- `s` with the instruction of an opcode-table word as the next thing that happens. -/
def State.withFetchWord (s : State) (nbits w : Nat) : State := placeNext (tableAccess nbits w) s

end Sys2Proof.Machine
end

