-- ==== Sys2Proof/Machine/HostProgram.lean ====
section
/-! DEFINITION. The host's programs in the syntax of 30_encoding.md section 4 (R89 to R91): the assembler's command words,
the host statements, the pseudo-instructions' expansions, and a host that runs such a program against one instance. Labels
and variables belong to the host, not to the core (R90), so they stand beside `State`, not in it (LOG 18, LOG 25). -/

namespace Sys2Proof.Machine

/-- A register name of R90. -/
inductive Reg where
  | cmd
  | status
  | result
  | count
  | blkData
  | keyData
  | stateW (j : Fin 4)
  | traceW (t j : Fin 4)
deriving DecidableEq, Repr

/-- `off(REG)` (R90, R52). -/
def regOffset : Reg → Nat
  | .cmd => 0x00
  | .status => 0x04
  | .result => 0x08
  | .count => 0x0C
  | .blkData => 0x10
  | .keyData => 0x14
  | .stateW j => 0x20 + 4 * j.val
  | .traceW t j => 0x40 + 16 * t.val + 4 * j.val

/-- A host statement (R90). Host variables `%x` and labels are numbered. -/
inductive HostStmt where
  | wr (reg : Reg) (v : Word)
  | rd (reg : Reg) (x : Nat)
  | label (l : Nat)
  | bnz (x : Nat) (m : Word) (l : Nat)
  | expect (x : Nat) (v : Word)
deriving DecidableEq, Repr

/-- What the assembler accepts as a command: A and B are 0 where the command does not use them, and the illegal words have
no mnemonic (R89). -/
def assembles : Instr → Bool
  | .gfmul _ _ => true
  | .sbox _ b => b == 0
  | .isbox _ b => b == 0
  | .nop a b => a == 0 && b == 0
  | .subb a b => a == 0 && b == 0
  | .isubb a b => a == 0 && b == 0
  | .shr a b => a == 0 && b == 0
  | .ishr a b => a == 0 && b == 0
  | .mixc a b => a == 0 && b == 0
  | .imixc a b => a == 0 && b == 0
  | .ark a b => a == 0 && b == 0
  | .enc a b => a == 0 && b == 0
  | .dec a b => a == 0 && b == 0
  | .clrb a b => a == 0 && b == 0
  | .clrk a b => a == 0 && b == 0
  | .reservedOp _ _ => false
  | .reservedFields _ _ _ _ _ => false
  | .wrBlkData _ => false
  | .wrKeyData _ => false
  | .rdStatus => false
  | .rdResult => false
  | .rdCount => false
  | .rdStateW _ => false
  | .rdTraceW _ _ => false
  | .rdZero _ => false
  | .wrIgnored _ _ => false

/-- The CMD word of a command line, if the assembler accepts it (R89). -/
def assemble (i : Instr) : Option Word := if assembles i then i.commandWord? else none

/-- A source line: a host statement, a command, `.word v`, or a pseudo-instruction (R89 to R91). `x` is the host variable
(for rdst and rdtr the first of four), `l` a fresh label. -/
inductive AsmLine where
  | stmt (h : HostStmt)
  | command (i : Instr)
  | word (v : Word)
  | poll (x l : Nat)
  | run (i : Instr) (x l : Nat)
  | ldb (h : List Byte)
  | ldk (h : List Byte)
  | rdst (x : Nat)
  | rdtr (t : Fin 4) (x : Nat)
deriving DecidableEq, Repr

/-- `poll` (R91): read STATUS until BUSY = 0. -/
def expandPoll (x l : Nat) : List HostStmt := [.label l, .rd .status x, .bnz x 0x1 l]

/-- Four reads into four variables (R91). -/
def expandReads (reg : Fin 4 → Reg) (x : Nat) : List HostStmt :=
  [.rd (reg 0) x, .rd (reg 1) (x + 1), .rd (reg 2) (x + 2), .rd (reg 3) (x + 3)]

/-- The exact expansion of a source line (R91); none where the assembler rejects it (R89). -/
def expand : AsmLine → Option (List HostStmt)
  | .stmt h => some [h]
  | .command i => (assemble i).map fun w => [.wr .cmd w]
  | .word v => some [.wr .cmd v]
  | .poll x l => some (expandPoll x l)
  | .run i x l => (assemble i).map fun w => .wr .cmd w :: expandPoll x l
  | .ldb h => some (h.map fun d => .wr .blkData (d.setWidth 32))
  | .ldk h => some (h.map fun d => .wr .keyData (d.setWidth 32))
  | .rdst x => some (expandReads .stateW x)
  | .rdtr t x => some (expandReads (.traceW t) x)

/-- A host program at work on one instance: the program, the line it has reached, its variables (newest binding first),
and the instance. -/
structure HostRun where
  prog : List HostStmt
  line : Nat
  vars : List (Nat × Word)
  core : State
deriving DecidableEq, Repr

/-- The instance takes one step with a given input in front of what is already there. -/
def stepWith (i : Input) (s : State) : Result := step { s with inputs := i :: s.inputs }

/-- One host statement (R90). A bus access is one step of the instance; control flow and assertions are not. Where a label
stands more than once, `bnz` goes to the first: the spec does not say which (DESIGN CHOICE, LOG 25). -/
def hostStatement (h : HostRun) : Host.Outcome HostRun Fault Refusal :=
  match h.prog[h.line]? with
  | none => .next h
  | some (.wr reg v) =>
    match stepWith (.access (h.core.owner.getD 0) (.write .word (regOffset reg : Int) v)) h.core with
    | .next t => .next { h with line := h.line + 1, core := t }
    | .fault r => .fault r
    | .refused r => .refused r
  | some (.rd reg x) =>
    match stepWith (.access (h.core.owner.getD 0) (.read .word (regOffset reg : Int))) h.core with
    | .next t => .next { h with line := h.line + 1, vars := (t.hostReads.take 1).map (x, ·) ++ h.vars, core := t }
    | .fault r => .fault r
    | .refused r => .refused r
  | some (.label _) => .next { h with line := h.line + 1 }
  | some (.bnz x m l) =>
    match h.vars.lookup x, h.prog.findIdx? (· == .label l) with
    | none, _ => .refused .unsetVariable
    | some _, none => .refused .noLabel
    | some v, some n => .next { h with line := if v &&& m = 0 then h.line + 1 else n }
  | some (.expect x v) =>
    match h.vars.lookup x with
    | none => .refused .unsetVariable
    | some u => if u = v then .next { h with line := h.line + 1 } else .fault .hostExpectFailed

/-- The instance moves on its own between two host statements (R35). -/
def hostWaits (h : HostRun) : Host.Outcome HostRun Fault Refusal :=
  match stepWith .core h.core with
  | .next t => .next { h with core := t }
  | .fault r => .fault r
  | .refused r => .refused r

/-- A host program's run along a given interleaving: `true` is a host statement, `false` a move of the core. -/
def hostRun : List Bool → HostRun → Host.Outcome HostRun Fault Refusal
  | [], h => .next h
  | who :: rest, h =>
    match (if who then hostStatement h else hostWaits h) with
    | .next h' => hostRun rest h'
    | .fault r => .fault r
    | .refused r => .refused r

end Sys2Proof.Machine
end

