-- ==== Sys2Proof/Machine/System.lean ====
section
/-! DEFINITION. A system of N_INST independent instances (R10, R38, R65, R248): each is a `State` with its own window and
its own registers, and each takes its steps on its own (LOG 17). -/

namespace Sys2Proof.Machine

/-- The instances of a system; N_INST is their number (R10). -/
structure System where
  insts : List State
deriving DecidableEq, Repr

/-- A system the spec admits: at least one instance, admitted configurations, no two windows at one BASE (R10, R248). -/
def systemWf (y : System) : Bool :=
  !y.insts.isEmpty && y.insts.all (fun s => configWf s.cfg) && decide ((y.insts.map fun s => s.cfg.base).Nodup)

/-- Instance k takes its next step; the others do nothing (R65). An instance the system does not have does nothing. -/
def systemStep (k : Nat) (y : System) : Host.Outcome System Fault Refusal :=
  match y.insts[k]? with
  | none => .next y
  | some s =>
    match step s with
    | .next t => .next { y with insts := y.insts.set k t }
    | .fault r => .fault r
    | .refused r => .refused r

/-- The window at BASE: 0x80 bytes (R51). -/
def inWindow (s : State) (addr : Int) : Bool := decide ((s.cfg.base : Int) ≤ addr ∧ addr < s.cfg.base + 0x80)

/-- An access by host address, as the instance at `base` sees it: by its offset (R14). -/
def relocate (base : Nat) : Access → Access
  | .read width addr => .read width (addr - base)
  | .write width addr v => .write width (addr - base) v

/-- The host address of an access that is given by address. -/
def accessAddr : Access → Int
  | .read _ addr => addr
  | .write _ addr _ => addr

/-- A host agent issues an access by host address: it joins the inputs of the instance whose window holds the address,
behind what that host has issued before (R64). An access at an address in no window has no meaning and is refused (R53);
one that begins in a window is looked at by its instance, which refuses it unless it is 32 bits wide and aligned. -/
def systemIssue (agent : Nat) (a : Access) (y : System) : Host.Outcome System Fault Refusal :=
  match y.insts.findIdx? (fun s => inWindow s (accessAddr a)) with
  | none => .refused .outsideWindow
  | some k =>
    .next { y with
      insts := y.insts.modify k fun s => { s with inputs := s.inputs ++ [.access agent (relocate s.cfg.base a)] } }

/-- All instances reset together (R248, R260). -/
def systemReset (y : System) : System := { y with insts := y.insts.map resetCore }

end Sys2Proof.Machine
end

