-- ==== Sys2Proof/Safety.lean ====
section
/-! DEFINITION. The terms in which claims about the core are made: its data registers as one value, how a command ends, what
a window access leaves alone, which commands write which register, the invariant of the machine, and a safe run (R240). -/

namespace Sys2Proof.Machine

/-- The data registers and counters of an instance (R22 to R27). -/
structure DataRegs where
  block : Mat
  key : Mat
  blkCnt : BitVec 5
  keyCnt : BitVec 5
  result : Byte
  trace0 : Mat
  trace1 : Mat
  trace2 : Mat
  trace3 : Mat
deriving DecidableEq, Repr

/-- The data registers and counters that a state holds. -/
def State.data (s : State) : DataRegs where
  block := s.block
  key := s.key
  blkCnt := s.blkCnt
  keyCnt := s.keyCnt
  result := s.result
  trace0 := s.trace0
  trace1 := s.trace1
  trace2 := s.trace2
  trace3 := s.trace3

/-- A command has ended with this outcome (R233, R235): ERR, LENB and LENK are written and PHASE is IDLE; OVF, the
parameters, REM and what stands outside the core are as before. PEND is free after a command (U3), so nothing is said of it. -/
def Ends (s t : State) (err : Nibble) (lenb lenk : Bool) : Prop :=
  t.err = err ∧ t.lenb = lenb ∧ t.lenk = lenk ∧ t.phase = .idle ∧
  t.ovf = s.ovf ∧ t.cfg = s.cfg ∧ t.rem = s.rem ∧
  t.owner = s.owner ∧ t.inputs = s.inputs ∧ t.hostReads = s.hostReads

/-- STATUS apart from OVF, the hidden registers, the parameters and the pending inputs are as before. -/
def KeepsControl (s t : State) : Prop :=
  t.err = s.err ∧ t.lenb = s.lenb ∧ t.lenk = s.lenk ∧ t.phase = s.phase ∧ t.pend = s.pend ∧ t.rem = s.rem ∧
  t.cfg = s.cfg ∧ t.owner = s.owner ∧ t.inputs = s.inputs

/-- A host read has returned w, or any word if w is none, and no state of the core has changed (R60). -/
def Returns (s t : State) (w : Option Word) : Prop :=
  t.data = s.data ∧ KeepsControl s t ∧ t.ovf = s.ovf ∧
  ∃ v, t.hostReads = v :: s.hostReads ∧ ∀ u, w = some u → v = u

/-- The CMD word of an opcode and two operands, by the formula of R80: `(B << 16) | (A << 8) | OP`. -/
def commandFormula (op : Word) (a b : Byte) : Word :=
  (b.setWidth 32 <<< 16) ||| (a.setWidth 32 <<< 8) ||| op

/-- The fifteen commands of R81 that are not illegal. -/
def legalCommand : Instr → Bool
  | .nop _ _ => true
  | .gfmul _ _ => true
  | .sbox _ _ => true
  | .isbox _ _ => true
  | .subb _ _ => true
  | .isubb _ _ => true
  | .shr _ _ => true
  | .ishr _ _ => true
  | .mixc _ _ => true
  | .imixc _ _ => true
  | .ark _ _ => true
  | .enc _ _ => true
  | .dec _ _ => true
  | .clrb _ _ => true
  | .clrk _ _ => true
  | .reservedOp _ _ => false
  | .reservedFields _ _ _ _ _ => false
  | .wrBlkData _ => false
  | .wrKeyData _ => false
  | .rdStatus => false
  | .rdResult => false
  | .rdCount => false
  | .rdStateW _ => false
  | .rdTraceW _ _ => false
  | .rdZero _ => false
  | .wrIgnored _ _ => false

/-- SUBB, ISUBB, SHR, ISHR, MIXC, IMIXC: the commands that check the block length only (R231). -/
def checksBlockOnly : Instr → Bool
  | .subb _ _ => true
  | .isubb _ _ => true
  | .shr _ _ => true
  | .ishr _ _ => true
  | .mixc _ _ => true
  | .imixc _ _ => true
  | _ => false

/-- ARK, ENC, DEC: the commands that check both lengths (R231). -/
def checksBlockAndKey : Instr → Bool
  | .ark _ _ => true
  | .enc _ _ => true
  | .dec _ _ => true
  | _ => false

/-- The commands that write STATE (R22). -/
def writesBlock (i : Instr) : Bool :=
  checksBlockOnly i || checksBlockAndKey i ||
    match i with
    | .clrb _ _ => true
    | _ => false

/-- CLRK, the only command that writes KEY (R23). -/
def writesKey : Instr → Bool
  | .clrk _ _ => true
  | _ => false

/-- GFMUL, SBOX and ISBOX, the only commands that write RESULT (R26). -/
def writesResult : Instr → Bool
  | .gfmul _ _ => true
  | .sbox _ _ => true
  | .isbox _ _ => true
  | _ => false

/-- ENC and DEC, the only commands that write TRACE0..TRACE3 (R27). -/
def writesTrace : Instr → Bool
  | .enc _ _ => true
  | .dec _ _ => true
  | _ => false

/-- The next thing that happens to s is a move of the core (R35). -/
def CoreNext (s : State) : Prop := s.inputs = [] ∨ ∃ rest, s.inputs = .core :: rest

/-- The next thing that happens to s is the completion of its pending command (R35). -/
def Completing (s : State) : Prop := s.phase = .run ∧ s.rem = 0 ∧ CoreNext s

/-- The next thing that happens to s is an assertion of reset (R260). -/
def Resetting (s : State) : Prop := ∃ rest, s.inputs = .reset :: rest

/-- The next thing that happens to s is a 32-bit host write of v at a window offset. -/
def Writing (s : State) (off : Int) (v : Word) : Prop :=
  ∃ agent rest, s.inputs = .access agent (.write .word off v) :: rest

/-- The next thing that happens to s is a host access by its one host (R67). -/
def NextAccess (s : State) (agent : Nat) (a : Access) (rest : List Input) : Prop :=
  s.inputs = .access agent a :: rest ∧ (s.owner = none ∨ s.owner = some agent)

/-- What holds of an instance at reset and after every step: ERR is a code the hardware produces (R30), LENB and LENK say
something exactly when ERR is INVALID_LENGTH (R231 to R233), no cycle is left in IDLE (the model's deduction, LOG 24: R35
calls REM valid in INIT and RUN only), and the bytes not loaded since the last CLRB or CLRK are 0x00 (R37). -/
structure Inv (s : State) : Prop where
  err_legal : s.err.toNat ≤ 2
  err_length : s.err = errInvalidLength ↔ (s.lenb = true ∨ s.lenk = true)
  idle_rem : s.phase = .idle → s.rem = 0
  block_tail : ∀ i, i < 16 → s.blkCnt.toNat ≤ i → s.block.flat i = 0
  key_tail : ∀ i, i < 16 → s.keyCnt.toNat ≤ i → s.key.flat i = 0

/-- The refusals that a host's own access can cause (R53, R67). -/
def hostRefusal : Refusal → Bool
  | .accessWidth => true
  | .outsideWindow => true
  | .misaligned => true
  | .secondHost => true
  | _ => false

/-- n steps from s, stopping at the first fault or refusal (the host's `Host.Core.run`; Laws/Step.lean says so). -/
def runs : Nat → State → Result
  | 0, s => .next s
  | n + 1, s =>
    match step s with
    | .next t => runs n t
    | .fault r => .fault r
    | .refused r => .refused r

/-- A run of n steps that a claim about a host's program may be made of: it neither stops nor ends with OVF set (R240). -/
def SafeRun (n : Nat) (s t : State) : Prop :=
  runs n s = .next t ∧ t.ovf = false

end Sys2Proof.Machine
end

