-- ==== Sys2Proof/Certificates/Slice0/Obligations.lean ====
section
/-! DEFINITION. The statements about the core that are to be proved. -/

open Sys2Proof Sys2Proof.Machine

/-! ## Encoding -/

/-- Decoding the access of a well-formed instruction gives the instruction back, every operand included. -/
def Obligations.DecodeOfEncode : Prop :=
  ∀ i : Instr, i.wf = true → decode (encode i) = .ok i

/-- An access that decodes, decodes to a well-formed instruction whose access it is: one meaning a word, no bit dropped. -/
def Obligations.EncodeOfDecode : Prop :=
  ∀ (a : Access) (i : Instr), decode a = .ok i → i.wf = true ∧ encode i = a

/-- R85: which words select a legal command; and R84's order for the rest: a nonzero reserved field makes a word an
instance of the reserved-fields row whatever its opcode (LOG 16's reading), else opcode 0xF of the other illegal row. -/
def Obligations.LegalCommandWords : Prop :=
  ∀ w : Word,
    (legalCommand (decodeCmd w) = true ↔ (w &&& 0xFF0000F0#32 = 0 ∧ w.extractLsb' 0 4 ≠ 0xF#4)) ∧
    (w &&& 0xFF0000F0#32 ≠ 0 → ∃ rsv1 b a rsv0 op, decodeCmd w = .reservedFields rsv1 b a rsv0 op) ∧
    (w &&& 0xFF0000F0#32 = 0 → w.extractLsb' 0 4 = 0xF#4 → ∃ a b, decodeCmd w = .reservedOp a b)

/-- R81 with the word formula of R80: each opcode selects its command, with A and B from bits 15:8 and 23:16. -/
def Obligations.OpcodeMap : Prop :=
  ∀ a b : Byte,
    decodeCmd (commandFormula 0x0 a b) = .nop a b ∧ decodeCmd (commandFormula 0x1 a b) = .gfmul a b ∧
    decodeCmd (commandFormula 0x2 a b) = .sbox a b ∧ decodeCmd (commandFormula 0x3 a b) = .isbox a b ∧
    decodeCmd (commandFormula 0x4 a b) = .subb a b ∧ decodeCmd (commandFormula 0x5 a b) = .isubb a b ∧
    decodeCmd (commandFormula 0x6 a b) = .shr a b ∧ decodeCmd (commandFormula 0x7 a b) = .ishr a b ∧
    decodeCmd (commandFormula 0x8 a b) = .mixc a b ∧ decodeCmd (commandFormula 0x9 a b) = .imixc a b ∧
    decodeCmd (commandFormula 0xA a b) = .ark a b ∧ decodeCmd (commandFormula 0xB a b) = .enc a b ∧
    decodeCmd (commandFormula 0xC a b) = .dec a b ∧ decodeCmd (commandFormula 0xD a b) = .clrb a b ∧
    decodeCmd (commandFormula 0xE a b) = .clrk a b ∧ decodeCmd (commandFormula 0xF a b) = .reservedOp a b

/-- R83: an operand that a command does not use is ignored: any value of it gives the same effect. (The effect is that at
completion; whether LAT may depend on such an operand is left open, LOG 5.) -/
def Obligations.UnusedOperandsAreIgnored : Prop :=
  ∀ (a b a' b' : Byte) (s : State),
    (∀ op ∈ [0x0#32, 0x4, 0x5, 0x6, 0x7, 0x8, 0x9, 0xA, 0xB, 0xC, 0xD, 0xE],
      exec (decodeCmd (commandFormula op a b)) s = exec (decodeCmd (commandFormula op a' b')) s) ∧
    (∀ op ∈ [0x2#32, 0x3],
      exec (decodeCmd (commandFormula op a b)) s = exec (decodeCmd (commandFormula op a b')) s)

/-- A few words written out bit by bit from R80 and the opcode table decode to their instructions. -/
def Obligations.WrittenOutWords : Prop :=
  decodeCmd 0b00000000_10000011_01010111_0000_0001#32 = .gfmul 0x57 0x83 ∧
  decodeCmd 0b00000000_10101010_01010011_0000_0010#32 = .sbox 0x53 0xAA ∧
  decodeCmd 0b00000000_00000000_00000000_0000_1011#32 = .enc 0 0 ∧
  decodeCmd 0b00000001_00000000_00000000_0000_0001#32 = .reservedFields 1 0 0 0 1 ∧
  decode (.read .word 0x7C) = .ok (.rdTraceW 3 3)

/-- R53: exactly the aligned 32-bit accesses of the window have a meaning; every other access is refused, by name, and is
given neither a value nor an effect. -/
def Obligations.OnlyDefinedAccesses : Prop :=
  ∀ (width : Width) (off : Int) (v : Word) (s : State),
    ((∃ i, decode (.read width off) = .ok i) ↔ (width = .word ∧ 0 ≤ off ∧ off ≤ 0x7C ∧ off % 4 = 0)) ∧
    ((∃ i, decode (.write width off v) = .ok i) ↔ (width = .word ∧ 0 ≤ off ∧ off ≤ 0x7C ∧ off % 4 = 0)) ∧
    (¬ (width = .word ∧ 0 ≤ off ∧ off ≤ 0x7C ∧ off % 4 = 0) →
      (hostAccess (.read width off) s = .refused .accessWidth ∨
        hostAccess (.read width off) s = .refused .outsideWindow ∨
        hostAccess (.read width off) s = .refused .misaligned) ∧
      hostAccess (.write width off v) s = hostAccess (.read width off) s)

/-! ## The step -/

/-- A RUN state with no cycle left: the step is the effect of the command PEND decodes to (R35, R84). -/
def Obligations.StepCompletesPendingCommand : Prop :=
  ∀ s : State, s.phase = .run → s.rem = 0 →
    (s.inputs = [] → step s = exec (decodeCmd s.pend) s) ∧
    (∀ rest, s.inputs = .core :: rest → step s = exec (decodeCmd s.pend) { s with inputs := rest })

/-- A host access that decodes to a window access is that instruction's effect, on the state with the input taken and the
host known; a write of CMD is its acceptance. -/
def Obligations.StepRunsHostAccess : Prop :=
  ∀ (s : State) (agent : Nat) (a : Access) (rest : List Input) (i : Instr),
    NextAccess s agent a rest → decode a = .ok i →
      (i.isCommand = false → step s = exec i { s with inputs := rest, owner := some agent }) ∧
      (i.isCommand = true → step s = .next (acceptCmd a.data { s with inputs := rest, owner := some agent }))

/-- R56 and R58 for CMD: accepted while BUSY = 0, whatever the word; dropped while BUSY = 1, with OVF set and nothing else.
(REM becomes LAT, R10; that LAT is a function of the word, STATE, KEY and the counts is LOG 5's choice.) -/
def Obligations.CmdWriteAcceptedOrDropped : Prop :=
  ∀ (s : State) (agent : Nat) (v : Word) (rest : List Input),
    NextAccess s agent (.write .word 0x00 v) rest →
      ∃ t, step s = .next t ∧ t.data = s.data ∧ t.err = s.err ∧ t.lenb = s.lenb ∧ t.lenk = s.lenk ∧
        t.cfg = s.cfg ∧ t.inputs = rest ∧ t.hostReads = s.hostReads ∧
        (s.busy = false → t.phase = .run ∧ t.busy = true ∧ t.pend = v ∧ t.rem = latency s.cfg (operandsOf v s) ∧
          t.ovf = s.ovf) ∧
        (s.busy = true → t.phase = s.phase ∧ t.pend = s.pend ∧ t.rem = s.rem ∧ t.ovf = true)

/-- R58: a write of CMD, BLK_DATA or KEY_DATA while BUSY = 1, in a command or in the initialisation period, changes
nothing but OVF, and the running command goes on. -/
def Obligations.WritesWhileBusyAreDropped : Prop :=
  ∀ (s : State) (agent : Nat) (off : Int) (v : Word) (rest : List Input), off ∈ [0x00, 0x10, 0x14] →
    NextAccess s agent (.write .word off v) rest → s.busy = true →
      ∃ t, step s = .next t ∧ t.ovf = true ∧ t.data = s.data ∧ t.err = s.err ∧ t.lenb = s.lenb ∧ t.lenk = s.lenk ∧
        t.phase = s.phase ∧ t.pend = s.pend ∧ t.rem = s.rem ∧ t.cfg = s.cfg ∧ t.inputs = rest ∧
        t.hostReads = s.hostReads

/-- From the CMD write to the effect: written while IDLE, with nothing else happening, a command has its effect as the last
of LAT + 2 steps, on the registers as they were at acceptance (R35, R36, R56, R10). The model's choices in this count: the
completion is a move of its own (LOG 3), and one command on the same word, STATE, KEY and counts always takes LAT of them
(LOG 5). -/
def Obligations.CommandRunsAfterItsLatency : Prop :=
  ∀ (i : Instr) (s : State) (agent : Nat) (w : Word),
    i.wf = true → i.commandWord? = some w → s.phase = .idle → NextAccess s agent (encode i) [] →
      runs (latency s.cfg (operandsOf w s) + 2) s =
        exec i { s with inputs := [], owner := some agent, phase := .run, pend := w, rem := 0 }

/-- R36: while a command is pending, no step but its completion and a reset changes a data register, PEND or the
parameters. -/
def Obligations.NothingChangesBeforeCompletion : Prop :=
  ∀ s t : State, s.phase = .run → ¬ Completing s → ¬ Resetting s → step s = .next t →
    t.data = s.data ∧ t.pend = s.pend ∧ t.phase = .run ∧ t.cfg = s.cfg ∧
    t.err = s.err ∧ t.lenb = s.lenb ∧ t.lenk = s.lenk

/-- R67: a second host agent's access is refused. -/
def Obligations.SecondHostRefused : Prop :=
  ∀ (s : State) (first second : Nat) (a : Access) (rest : List Input),
    s.owner = some first → second ≠ first → s.inputs = .access second a :: rest → step s = .refused .secondHost

/-- The initialisation period: INIT_CYCLES moves, then IDLE (R35, R261); at its end an SBOX that is no permutation of 0..255
is refused (R127; that the refusal comes at this moment is LOG 9's choice). -/
def Obligations.InitialisationEnds : Prop :=
  ∀ s : State, s.phase = .init → s.inputs = [] →
    (∀ n, s.rem = n + 1 → step s = .next { s with rem := n }) ∧
    (s.rem = 0 → s.cfg.sbox.length = 256 → s.cfg.sbox.Nodup → step s = .next { s with phase := .idle }) ∧
    (s.rem = 0 → ¬ (s.cfg.sbox.length = 256 ∧ s.cfg.sbox.Nodup) → step s = .refused .sboxNotBijective)

/-! ## The multiplier -/

/-- R102 and R105: identity, zero, commutativity, distributivity, and the products by 2 and 3. -/
def Obligations.MultiplierLaws : Prop :=
  ∀ x y z : Byte,
    gfMul x 1 = x ∧ gfMul x 0 = 0 ∧ gfMul x y = gfMul y x ∧
    gfMul x (y ^^^ z) = gfMul x y ^^^ gfMul x z ∧
    gfMul x 2 = (x <<< 1) ^^^ (if x.getLsbD 7 then 0x1B#8 else 0x00#8) ∧
    gfMul x 3 = gfMul x 2 ^^^ x

/-- R103: the Bytes with xor and gf_mul form a field: xor is a commutative group in which every Byte is its own inverse,
gf_mul is associative, commutative, distributes over xor, has identity 1 and no zero divisors, and every nonzero Byte has
exactly one inverse (0xCA for 0x53), 0 none. -/
def Obligations.MultiplierFormsField : Prop :=
  (∀ x y z : Byte, (x ^^^ y) ^^^ z = x ^^^ (y ^^^ z) ∧ x ^^^ y = y ^^^ x ∧ x ^^^ 0 = x ∧ x ^^^ x = 0) ∧
  (∀ x y z : Byte, gfMul (gfMul x y) z = gfMul x (gfMul y z) ∧ gfMul x y = gfMul y x ∧
    gfMul x (y ^^^ z) = gfMul x y ^^^ gfMul x z ∧ gfMul x 1 = x) ∧
  (∀ x y : Byte, x ≠ 0 → y ≠ 0 → gfMul x y ≠ 0) ∧
  (∀ x : Byte, x ≠ 0 → ∃ y, gfMul x y = 1 ∧ ∀ z, gfMul x z = 1 → z = y) ∧
  gfMul 0x53 0xCA = 0x01 ∧ ∀ y : Byte, gfMul 0 y ≠ 1

/-- The polynomial over GF(2) whose coefficient of X^i is bit i. -/
noncomputable def bytePoly (a : Byte) : Polynomial (ZMod 2) :=
  (List.range 8).foldr (fun i p => (if a.getLsbD i then Polynomial.X ^ i else 0) + p) 0

/-- The loop of R100 computes the product of two polynomials modulo x^8+x^4+x^3+x+1 (R1, R8). -/
def Obligations.MultiplierIsPolynomialProduct : Prop :=
  ∀ a b : Byte, ∃ q : Polynomial (ZMod 2),
    bytePoly a * bytePoly b =
      bytePoly (gfMul a b) +
        q * (Polynomial.X ^ 8 + Polynomial.X ^ 4 + Polynomial.X ^ 3 + Polynomial.X + 1)

/-! ## Commands at completion -/

/-- R143: NOP writes the outcome fields and nothing else, whatever A and B. -/
def Obligations.NopClearsTheOutcome : Prop :=
  ∀ (a b : Byte) (s : State),
    ∃ t, exec (.nop a b) s = .next t ∧ t.data = s.data ∧ Ends s t 0 false false

/-- R101, R26: GFMUL's RESULT, with no length check and no other register. -/
def Obligations.GfmulWritesResult : Prop :=
  ∀ (a b : Byte) (s : State),
    ∃ t, exec (.gfmul a b) s = .next t ∧ t.data = { s.data with result := gfMul a b } ∧ Ends s t 0 false false

/-- R122, R123: SBOX looks A up; ISBOX finds the index at which A stands. B is ignored. SBOX of an ISBOX's RESULT is the
ISBOX's operand, and the other way round. -/
def Obligations.TableLookupsWriteResult : Prop :=
  ∀ (a b : Byte) (s : State), sboxBijective s.cfg.sbox = true →
    (∃ t v, exec (.sbox a b) s = .next t ∧ t.data = { s.data with result := v } ∧ Ends s t 0 false false ∧
      s.cfg.sbox[a.toNat]? = some v) ∧
    (∃ t v, exec (.isbox a b) s = .next t ∧ t.data = { s.data with result := v } ∧ Ends s t 0 false false ∧
      s.cfg.sbox[v.toNat]? = some a)

/-- R124, R125: SUBB and ISUBB on a 16-byte block, byte by byte. -/
def Obligations.SubstitutionOfTheBlock : Prop :=
  ∀ (a b : Byte) (s : State), sboxBijective s.cfg.sbox = true → s.blkCnt = 16 →
    (∃ t B, exec (.subb a b) s = .next t ∧ t.data = { s.data with block := B } ∧ Ends s t 0 false false ∧
      ∀ r c : Fin 4, s.cfg.sbox[(s.block.get r c).toNat]? = some (B.get r c)) ∧
    (∃ t B, exec (.isubb a b) s = .next t ∧ t.data = { s.data with block := B } ∧ Ends s t 0 false false ∧
      ∀ r c : Fin 4, s.cfg.sbox[(B.get r c).toNat]? = some (s.block.get r c))

/-- R180, R181, R183: SHR and ISHR on a 16-byte block, by row and column and by flat index. -/
def Obligations.RowRotationOfTheBlock : Prop :=
  ∀ (a b : Byte) (s : State), s.blkCnt = 16 →
    (∃ t B, exec (.shr a b) s = .next t ∧ t.data = { s.data with block := B } ∧ Ends s t 0 false false ∧
      (∀ r c : Fin 4, B.get r c = s.block.get r (Fin.ofNat 4 ((c.val + r.val) % 4))) ∧
      ∀ j, j < 16 → B.flat j = s.block.flat (j % 4 + 4 * ((j / 4 + j % 4) % 4))) ∧
    (∃ t B, exec (.ishr a b) s = .next t ∧ t.data = { s.data with block := B } ∧ Ends s t 0 false false ∧
      (∀ r c : Fin 4, B.get r c = s.block.get r (Fin.ofNat 4 ((c.val + 4 - r.val) % 4))) ∧
      ∀ j, j < 16 → B.flat j = s.block.flat (j % 4 + 4 * ((j / 4 + 4 - j % 4) % 4)))

/-- The matrix product of R190 and R191 at one place: row r of a coefficient matrix with column c of a state. -/
def rowTimesColumn (M : Fin 4 → Fin 4 → Byte) (S : Mat) (r c : Fin 4) : Byte :=
  gfMul (S.get 0 c) (M r 0) ^^^ gfMul (S.get 1 c) (M r 1) ^^^ gfMul (S.get 2 c) (M r 2) ^^^ gfMul (S.get 3 c) (M r 3)

/-- `M` of R190: the row (2, 3, 1, 1) rotated right by r. -/
def mixMatrix (r k : Fin 4) : Byte :=
  ([0x02, 0x03, 0x01, 0x01] : List Byte).getD (k - r).val 0

/-- `IM` of R191: the row (0e, 0b, 0d, 09) rotated right by r. -/
def invMixMatrix (r k : Fin 4) : Byte :=
  ([0x0E, 0x0B, 0x0D, 0x09] : List Byte).getD (k - r).val 0

/-- R190 to R193: MIXC and IMIXC on a 16-byte block are the products with the two matrices, column by column. -/
def Obligations.ColumnMixOfTheBlock : Prop :=
  ∀ (a b : Byte) (s : State), s.blkCnt = 16 →
    (∃ t B, exec (.mixc a b) s = .next t ∧ t.data = { s.data with block := B } ∧ Ends s t 0 false false ∧
      ∀ r c : Fin 4, B.get r c = rowTimesColumn mixMatrix s.block r c) ∧
    (∃ t B, exec (.imixc a b) s = .next t ∧ t.data = { s.data with block := B } ∧ Ends s t 0 false false ∧
      ∀ r c : Fin 4, B.get r c = rowTimesColumn invMixMatrix s.block r c)

/-- The matrix product of two coefficient matrices, with products by gf_mul and sums by xor (R194). -/
def matrixProduct (M N : Fin 4 → Fin 4 → Byte) (r c : Fin 4) : Byte :=
  gfMul (M r 0) (N 0 c) ^^^ gfMul (M r 1) (N 1 c) ^^^ gfMul (M r 2) (N 2 c) ^^^ gfMul (M r 3) (N 3 c)

/-- R194: the two coefficient matrices are mutual inverses over GF(2^8), each column map undoes the other, and so do MIXC
and IMIXC. -/
def Obligations.ColumnMapsAreInverse : Prop :=
  (∀ r c : Fin 4, matrixProduct mixMatrix invMixMatrix r c = (if r = c then 1 else 0) ∧
    matrixProduct invMixMatrix mixMatrix r c = (if r = c then 1 else 0)) ∧
  (∀ S : Mat, invMixColumns (mixColumns S) = S ∧ mixColumns (invMixColumns S) = S) ∧
  (∀ (a b a' b' : Byte) (s : State), s.blkCnt = 16 →
    (∃ t u, exec (.mixc a b) s = .next t ∧ exec (.imixc a' b') t = .next u ∧ t.err = 0 ∧ u.err = 0 ∧
      u.data = s.data) ∧
    (∃ t u, exec (.imixc a b) s = .next t ∧ exec (.mixc a' b') t = .next u ∧ t.err = 0 ∧ u.err = 0 ∧
      u.data = s.data))

/-- R196: both column maps are linear over xor. -/
def Obligations.ColumnMapsAreLinear : Prop :=
  ∀ x y : Col,
    mixCol (Col.ofFn fun r => x.get r ^^^ y.get r) = (Col.ofFn fun r => (mixCol x).get r ^^^ (mixCol y).get r) ∧
    invMixCol (Col.ofFn fun r => x.get r ^^^ y.get r) =
      (Col.ofFn fun r => (invMixCol x).get r ^^^ (invMixCol y).get r)

/-- R170: ARK on a 16-byte block and key. -/
def Obligations.RoundKeyIntoTheBlock : Prop :=
  ∀ (a b : Byte) (s : State), s.blkCnt = 16 → s.keyCnt = 16 →
    ∃ t B, exec (.ark a b) s = .next t ∧ t.data = { s.data with block := B } ∧ Ends s t 0 false false ∧
      ∀ r c : Fin 4, B.get r c = s.block.get r c ^^^ s.key.get r c

/-- R210: the four stages of ENC, each from the one before it, all in TRACE and the last in STATE. -/
def Obligations.EncryptStages : Prop :=
  ∀ (a b : Byte) (s : State), sboxBijective s.cfg.sbox = true → s.blkCnt = 16 → s.keyCnt = 16 →
    ∃ t s0 s1 s2 s3, exec (.enc a b) s = .next t ∧ Ends s t 0 false false ∧
      t.data = { s.data with trace0 := s0, trace1 := s1, trace2 := s2, trace3 := s3, block := s3 } ∧
      (∀ r c : Fin 4, s0.get r c = s.block.get r c ^^^ s.key.get r c) ∧
      (∀ r c : Fin 4, s.cfg.sbox[(s0.get r c).toNat]? = some (s1.get r c)) ∧
      (∀ r c : Fin 4, s2.get r c = s1.get r (c + r)) ∧
      (∀ r c : Fin 4, s3.get r c = rowTimesColumn mixMatrix s2 r c)

/-- R211: the four stages of DEC, each from the one before it, all in TRACE and the last in STATE. -/
def Obligations.DecryptStages : Prop :=
  ∀ (a b : Byte) (s : State), sboxBijective s.cfg.sbox = true → s.blkCnt = 16 → s.keyCnt = 16 →
    ∃ t s0 s1 s2 s3, exec (.dec a b) s = .next t ∧ Ends s t 0 false false ∧
      t.data = { s.data with trace0 := s0, trace1 := s1, trace2 := s2, trace3 := s3, block := s3 } ∧
      (∀ r c : Fin 4, s0.get r c = rowTimesColumn invMixMatrix s.block r c) ∧
      (∀ r c : Fin 4, s1.get r c = s0.get r (c - r)) ∧
      (∀ r c : Fin 4, s.cfg.sbox[(s2.get r c).toNat]? = some (s1.get r c)) ∧
      (∀ r c : Fin 4, s3.get r c = s2.get r c ^^^ s.key.get r c)

/-- R212: for every SBOX that is a bijection, DEC after ENC and ENC after DEC leave STATE as it was, as functions of block
and key and as commands. -/
def Obligations.RoundTrip : Prop :=
  (∀ (T : List Byte) (S K : Mat), sboxBijective T = true →
    (decStages T (encStages T S K).s3 K).s3 = S ∧ (encStages T (decStages T S K).s3 K).s3 = S) ∧
  (∀ (a b a' b' : Byte) (s : State), sboxBijective s.cfg.sbox = true → s.blkCnt = 16 → s.keyCnt = 16 →
    (∃ t u, exec (.enc a b) s = .next t ∧ exec (.dec a' b') t = .next u ∧ u.block = s.block ∧ t.err = 0 ∧ u.err = 0) ∧
    (∃ t u, exec (.dec a b) s = .next t ∧ exec (.enc a' b') t = .next u ∧ u.block = s.block ∧ t.err = 0 ∧ u.err = 0))

/-- R126, R171, R182: SUBB and ISUBB, SHR and ISHR undo each other and ARK undoes itself, as functions and as commands; the
two tables are inverse to each other. -/
def Obligations.StageInverses : Prop :=
  (∀ (T : List Byte), sboxBijective T = true →
    (∀ x, invSboxAt T (sboxAt T x) = x ∧ sboxAt T (invSboxAt T x) = x) ∧
    (∀ S, invSubBytes T (subBytes T S) = S ∧ subBytes T (invSubBytes T S) = S)) ∧
  (∀ S, invShiftRows (shiftRows S) = S ∧ shiftRows (invShiftRows S) = S) ∧
  (∀ S K, addRoundKey (addRoundKey S K) K = S) ∧
  (∀ (a b a' b' : Byte) (s : State), sboxBijective s.cfg.sbox = true → s.blkCnt = 16 →
    ∀ p ∈ [(Instr.subb a b, Instr.isubb a' b'), (.isubb a b, .subb a' b'), (.shr a b, .ishr a' b'),
        (.ishr a b, .shr a' b'), (.ark a b, .ark a' b')],
      (p.1 = .ark a b → s.keyCnt = 16) →
        ∃ t u, exec p.1 s = .next t ∧ exec p.2 t = .next u ∧ u.data = s.data ∧ t.err = 0 ∧ u.err = 0)

/-- R210, R211: a pipeline has the effect on STATE of its four stages issued one after the other; only the pipeline writes
TRACE. -/
def Obligations.PipelinesAreTheirStages : Prop :=
  ∀ (a b : Byte) (s : State), s.blkCnt = 16 → s.keyCnt = 16 →
    (∃ t s1 s2 s3 s4, exec (.enc a b) s = .next t ∧
      exec (.ark a b) s = .next s1 ∧ exec (.subb a b) s1 = .next s2 ∧ exec (.shr a b) s2 = .next s3 ∧
      exec (.mixc a b) s3 = .next s4 ∧ s4.data = { s.data with block := t.block }) ∧
    (∃ t s1 s2 s3 s4, exec (.dec a b) s = .next t ∧
      exec (.imixc a b) s = .next s1 ∧ exec (.ishr a b) s1 = .next s2 ∧ exec (.isubb a b) s2 = .next s3 ∧
      exec (.ark a b) s3 = .next s4 ∧ s4.data = { s.data with block := t.block })

/-- R144, R145: CLRB and CLRK. -/
def Obligations.ClearingTheLoaders : Prop :=
  ∀ (a b : Byte) (s : State),
    (∃ t B, exec (.clrb a b) s = .next t ∧ t.data = { s.data with block := B, blkCnt := 0 } ∧
      Ends s t 0 false false ∧ ∀ r c : Fin 4, B.get r c = 0) ∧
    (∃ t K, exec (.clrk a b) s = .next t ∧ t.data = { s.data with key := K, keyCnt := 0 } ∧
      Ends s t 0 false false ∧ ∀ r c : Fin 4, K.get r c = 0)

/-- R86, R232: an illegal word completes with ILLEGAL_COMMAND and no other effect, whatever the counts; by constructor,
and for every word that R84 calls illegal. -/
def Obligations.IllegalWordsChangeNothing : Prop :=
  ∀ (rsv1 b a : Byte) (rsv0 op : Nibble) (s : State),
    (∃ t, exec (.reservedOp a b) s = .next t ∧ t.data = s.data ∧ Ends s t 2 false false) ∧
    (∃ t, exec (.reservedFields rsv1 b a rsv0 op) s = .next t ∧ t.data = s.data ∧ Ends s t 2 false false) ∧
    (∀ w : Word, (w.extractLsb' 4 4 ≠ 0#4 ∨ w.extractLsb' 24 8 ≠ 0#8 ∨ w.extractLsb' 0 4 = 0xF#4) →
      ∃ t, exec (decodeCmd w) s = .next t ∧ t.data = s.data ∧ Ends s t 2 false false)

/-- R231, R233: a wrong count makes exactly the commands that check it fail, LENB and LENK naming every wrong count, with no
other state changed. -/
def Obligations.WrongLengthsFail : Prop :=
  ∀ (i : Instr) (s : State),
    (checksBlockOnly i = true → s.blkCnt ≠ 16 →
      ∃ t, exec i s = .next t ∧ t.data = s.data ∧ Ends s t 1 true false) ∧
    (checksBlockAndKey i = true → (s.blkCnt ≠ 16 ∨ s.keyCnt ≠ 16) →
      ∃ t, exec i s = .next t ∧ t.data = s.data ∧
        Ends s t 1 (decide (s.blkCnt ≠ 16)) (decide (s.keyCnt ≠ 16)))

/-- R235, R236, R238: every command completes with exactly one outcome: 2 for an illegal word, else 1 if a count it checks
is wrong, else 0. -/
def Obligations.EveryCommandHasOneOutcome : Prop :=
  ∀ (i : Instr) (s : State), i.isCommand = true →
    ∃ t, exec i s = .next t ∧ t.phase = .idle ∧ t.ovf = s.ovf ∧
      (legalCommand i = false → t.err = 2 ∧ t.lenb = false ∧ t.lenk = false) ∧
      (legalCommand i = true →
        (((checksBlockOnly i = true ∨ checksBlockAndKey i = true) ∧ s.blkCnt ≠ 16) ∨
            (checksBlockAndKey i = true ∧ s.keyCnt ≠ 16)) → t.err = 1) ∧
      (legalCommand i = true →
        ¬ (((checksBlockOnly i = true ∨ checksBlockAndKey i = true) ∧ s.blkCnt ≠ 16) ∨
            (checksBlockAndKey i = true ∧ s.keyCnt ≠ 16)) → t.err = 0 ∧ t.lenb = false ∧ t.lenk = false)

/-! ## The window -/

/-- R140, R58: a BLK_DATA write. BUSY = 0: below 16 the byte goes to flat index BLK_CNT, from 16 on it is discarded; the
count goes up by one and saturates at 31. BUSY = 1: dropped, OVF. -/
def Obligations.BlockLoaderWrite : Prop :=
  ∀ (v : Word) (s : State),
    ∃ t B n, exec (.wrBlkData v) s = .next t ∧ t.data = { s.data with block := B, blkCnt := n } ∧
      KeepsControl s t ∧ t.hostReads = s.hostReads ∧
      (s.busy = true → B = s.block ∧ n = s.blkCnt ∧ t.ovf = true) ∧
      (s.busy = false → t.ovf = s.ovf ∧ n.toNat = min (s.blkCnt.toNat + 1) 31 ∧
        ∀ i, i < 16 → B.flat i = if i = s.blkCnt.toNat then v.extractLsb' 0 8 else s.block.flat i)

/-- R141, R58: a KEY_DATA write, as `BlockLoaderWrite` with KEY and KEY_CNT. -/
def Obligations.KeyLoaderWrite : Prop :=
  ∀ (v : Word) (s : State),
    ∃ t K n, exec (.wrKeyData v) s = .next t ∧ t.data = { s.data with key := K, keyCnt := n } ∧
      KeepsControl s t ∧ t.hostReads = s.hostReads ∧
      (s.busy = true → K = s.key ∧ n = s.keyCnt ∧ t.ovf = true) ∧
      (s.busy = false → t.ovf = s.ovf ∧ n.toNat = min (s.keyCnt.toNat + 1) 31 ∧
        ∀ i, i < 16 → K.flat i = if i = s.keyCnt.toNat then v.extractLsb' 0 8 else s.key.flat i)

/-- R142: a block or a key of any length presented after CLRB or CLRK: n writes in a row. The bytes stand in index order,
unloaded bytes are 0x00, bytes past the sixteenth are discarded, the count is min(n, 31), and no other register, STATUS
field, parameter or word read changes. -/
def Obligations.BlockLoadedInOrder : Prop :=
  ∀ (vs : List Word) (s : State) (agent : Nat),
    s.phase = .idle → (s.owner = none ∨ s.owner = some agent) →
    (s.blkCnt = 0 → (∀ r c : Fin 4, s.block.get r c = 0) →
      s.inputs = vs.map (fun v => .access agent (.write .word 0x10 v)) →
        ∃ t B n, runs vs.length s = .next t ∧
          t.data = { s.data with block := B, blkCnt := n } ∧ n.toNat = min vs.length 31 ∧
          (∀ i, i < 16 → B.flat i = ((vs.map fun v => v.extractLsb' 0 8)[i]?).getD 0) ∧
          t.ovf = s.ovf ∧ t.err = s.err ∧ t.lenb = s.lenb ∧ t.lenk = s.lenk ∧ t.phase = .idle ∧ t.pend = s.pend ∧
          t.rem = s.rem ∧ t.cfg = s.cfg ∧ t.inputs = [] ∧ t.hostReads = s.hostReads) ∧
    (s.keyCnt = 0 → (∀ r c : Fin 4, s.key.get r c = 0) →
      s.inputs = vs.map (fun v => .access agent (.write .word 0x14 v)) →
        ∃ t K n, runs vs.length s = .next t ∧
          t.data = { s.data with key := K, keyCnt := n } ∧ n.toNat = min vs.length 31 ∧
          (∀ i, i < 16 → K.flat i = ((vs.map fun v => v.extractLsb' 0 8)[i]?).getD 0) ∧
          t.ovf = s.ovf ∧ t.err = s.err ∧ t.lenb = s.lenb ∧ t.lenk = s.lenk ∧ t.phase = .idle ∧ t.pend = s.pend ∧
          t.rem = s.rem ∧ t.cfg = s.cfg ∧ t.inputs = [] ∧ t.hostReads = s.hostReads)

/-- R156: `flatten(make_state(b)) == b` for every 16-byte input, and `make_state(flatten(S)) == S`. -/
def Obligations.FlattenMakeState : Prop :=
  (∀ b : List Byte, b.length = 16 → flatten (makeState b) = b) ∧ (∀ S : Mat, makeState (flatten S) = S)

/-- R152, R29: a read of STATUS at any time, field by field, reserved bits 0; nothing changes. A reserved ERR code is a
fault (R30). -/
def Obligations.ReadStatus : Prop :=
  ∀ s : State,
    (s.err.toNat ≤ 2 → ∃ t w, exec .rdStatus s = .next t ∧ Returns s t (some w) ∧
      w.getLsbD 0 = s.busy ∧ w.getLsbD 1 = s.ovf ∧ w.extractLsb' 2 2 = 0#2 ∧ w.extractLsb' 4 4 = s.err ∧
      w.getLsbD 8 = s.lenb ∧ w.getLsbD 9 = s.lenk ∧ w.extractLsb' 10 22 = 0#22) ∧
    (3 ≤ s.err.toNat → exec .rdStatus s = .fault .reservedErrCode)

/-- R154, R155, R31: reads of RESULT and COUNT, field by field while BUSY = 0, any word while BUSY = 1; nothing changes.
COUNT = 0x00001010 means that both loads are complete. -/
def Obligations.ReadResultAndCount : Prop :=
  decode (.read .word 0x08) = .ok .rdResult ∧ decode (.read .word 0x0C) = .ok .rdCount ∧ ∀ s : State,
    (s.busy = false →
      (∃ t w, exec .rdResult s = .next t ∧ Returns s t (some w) ∧
        w.extractLsb' 0 8 = s.result ∧ w.extractLsb' 8 24 = 0#24) ∧
      (∃ t w, exec .rdCount s = .next t ∧ Returns s t (some w) ∧
        w.extractLsb' 0 5 = s.blkCnt ∧ w.extractLsb' 5 3 = 0#3 ∧ w.extractLsb' 8 5 = s.keyCnt ∧
        w.extractLsb' 13 19 = 0#19 ∧ (w = 0x00001010 ↔ (s.blkCnt = 16 ∧ s.keyCnt = 16)))) ∧
    (s.busy = true → ∀ i ∈ [Instr.rdResult, .rdCount], ∃ t, exec i s = .next t ∧ Returns s t none)

/-- TRACEt by its number (R27). -/
def traceOf (s : State) (t : Fin 4) : Mat :=
  ([s.trace0, s.trace1, s.trace2, s.trace3] : List Mat).getD t.val s.trace0

/-- R150, R151, R62: reads of STATE_Wj and TRACEt_Wj: while BUSY = 0, bits 8k+7:8k hold flat byte 4j+k; while BUSY = 1,
any word; nothing changes. -/
def Obligations.ReadStateAndTrace : Prop :=
  ∀ (j n : Fin 4) (s : State),
    decode (.read .word (0x20 + 4 * (j.val : Int))) = .ok (.rdStateW j) ∧
    decode (.read .word (0x40 + 16 * (n.val : Int) + 4 * (j.val : Int))) = .ok (.rdTraceW n j) ∧
    (s.busy = false →
      (∃ t w, exec (.rdStateW j) s = .next t ∧ Returns s t (some w) ∧
        ∀ k : Fin 4, w.extractLsb' (8 * k.val) 8 = s.block.flat (4 * j.val + k.val)) ∧
      (∃ t w, exec (.rdTraceW n j) s = .next t ∧ Returns s t (some w) ∧
        ∀ k : Fin 4, w.extractLsb' (8 * k.val) 8 = (traceOf s n).flat (4 * j.val + k.val))) ∧
    (s.busy = true → ∀ i ∈ [Instr.rdStateW j, .rdTraceW n j], ∃ t, exec i s = .next t ∧ Returns s t none)

/-- R54: a read at a write-only or reserved offset returns 0 and has no effect. (That it does so while BUSY = 1 too is
LOG 8's reading.) -/
def Obligations.ReservedOffsetsReadZero : Prop :=
  ∀ (off : Nat) (s : State), off ∈ [0x00, 0x10, 0x14, 0x18, 0x1C, 0x30, 0x34, 0x38, 0x3C] →
    decode (.read .word (off : Int)) = .ok (.rdZero off) ∧ ∃ t, exec (.rdZero off) s = .next t ∧ Returns s t (some 0)

/-- R55: a write at a read-only or reserved offset changes no state, whatever BUSY is. -/
def Obligations.IgnoredWritesChangeNothing : Prop :=
  ∀ (off : Nat) (v : Word) (s : State), off % 4 = 0 → off < 0x80 → off ∉ [0x00, 0x10, 0x14] →
    decode (.write .word (off : Int) v) = .ok (.wrIgnored off v) ∧ exec (.wrIgnored off v) s = .next s

/-- R60: reads are idempotent while BUSY = 0: a second read of the same register returns the same word. -/
def Obligations.ReadsAreIdempotent : Prop :=
  ∀ (off : Int) (s t : State), s.busy = false → hostAccess (.read .word off) s = .next t →
    Returns s t none ∧
    ∃ u, hostAccess (.read .word off) t = .next u ∧ u.hostReads.head? = t.hostReads.head?

/-- R52: the register map: the offset at which each register is read or written. -/
def Obligations.RegisterMap : Prop :=
  (∀ v, decode (.write .word 0x00 v) = .ok (decodeCmd v)) ∧
  (∀ v, decode (.write .word 0x10 v) = .ok (.wrBlkData v)) ∧
  (∀ v, decode (.write .word 0x14 v) = .ok (.wrKeyData v)) ∧
  decode (.read .word 0x04) = .ok .rdStatus ∧ decode (.read .word 0x08) = .ok .rdResult ∧
  decode (.read .word 0x0C) = .ok .rdCount ∧
  (∀ j : Fin 4, decode (.read .word (0x20 + 4 * (j.val : Int))) = .ok (.rdStateW j)) ∧
  (∀ t j : Fin 4, decode (.read .word (0x40 + 16 * (t.val : Int) + 4 * (j.val : Int))) = .ok (.rdTraceW t j))

/-- R23: no host access returns anything that depends on KEY: two states that differ in KEY alone give the host the same
words and the same stops, and the next states again differ in KEY alone, but for the latency of a command that the access
starts: LAT may depend on an operand's value (R10), and the model passes KEY to LAT for every word (LOG 5's choice). -/
def Obligations.HostCannotReadKey : Prop :=
  ∀ (a : Access) (s : State) (k : Mat),
    (∀ t, hostAccess a s = .next t →
      ∃ k' n, hostAccess a { s with key := k } = .next { t with key := k', rem := n } ∧
        (n = t.rem ∨ (s.busy = false ∧ ∃ v, a = .write .word 0x00 v ∧
          n = latency s.cfg (operandsOf v { s with key := k })))) ∧
    (∀ f, hostAccess a s = .fault f → hostAccess a { s with key := k } = .fault f) ∧
    (∀ r, hostAccess a s = .refused r → hostAccess a { s with key := k } = .refused r)

/-! ## Whole-machine rules -/

/-- R260: the registers at reset, and that an asserted reset gives every register its reset value, keeps the parameters and
applies nothing of a running command. -/
def Obligations.ResetValues : Prop :=
  (∀ s : State, Resetting s →
    ∃ t, step s = .next t ∧ t.data = State.reset.data ∧ t.ovf = false ∧ t.err = 0 ∧ t.lenb = false ∧ t.lenk = false ∧
      t.phase = .init ∧ t.busy = true ∧ t.rem = s.cfg.initCycles ∧ t.cfg = s.cfg) ∧
  (∀ r c : Fin 4, State.reset.block.get r c = 0 ∧ State.reset.key.get r c = 0 ∧ State.reset.trace0.get r c = 0 ∧
    State.reset.trace1.get r c = 0 ∧ State.reset.trace2.get r c = 0 ∧ State.reset.trace3.get r c = 0) ∧
  State.reset.blkCnt = 0 ∧ State.reset.keyCnt = 0 ∧ State.reset.result = 0 ∧ State.reset.ovf = false ∧
  State.reset.err = 0 ∧ State.reset.lenb = false ∧ State.reset.lenk = false ∧ State.reset.phase = .init ∧
  State.reset.rem = State.reset.cfg.initCycles

/-- `Inv` holds right after reset. (Its clause on REM in IDLE is the model's deduction, LOG 24.) -/
def Obligations.ResetMeetsInvariant : Prop := Inv State.reset

/-- Every step keeps `Inv`: legal ERR codes (R30), LENB and LENK only with INVALID_LENGTH (R233), unloaded bytes 0x00 (R37),
and no cycle left in IDLE, which is the model's deduction (LOG 24): R35 calls REM valid in INIT and RUN only. -/
def Obligations.StepKeepsInvariant : Prop :=
  ∀ s t : State, Inv s → step s = .next t → Inv t

/-- From a state that meets `Inv` no step faults, and a step is refused only where its input is a host access by another
agent than the instance's own (R67) or one that has no meaning (R53), under that reason's name, or where the core ends the
initialisation period with a table that is no bijection (R127; that the refusal comes at this moment is LOG 9's choice). -/
def Obligations.StopsAreNamed : Prop :=
  ∀ s : State, Inv s →
    (∀ f, step s ≠ .fault f) ∧
    (∀ r, step s = .refused r →
      (∃ agent a rest, s.inputs = .access agent a :: rest ∧
        ((r = .secondHost ∧ ∃ h, s.owner = some h ∧ h ≠ agent) ∨
          ∃ e, decode a = .error e ∧ r = accessRefusal e)) ∨
      (r = .sboxNotBijective ∧ CoreNext s ∧ s.phase = .init ∧ s.rem = 0 ∧ sboxBijective s.cfg.sbox = false))

/-- R22, R23, R26, R27: which steps change STATE, KEY, RESULT and TRACE. -/
def Obligations.RegisterWriters : Prop :=
  ∀ s t : State, step s = .next t → ¬ Resetting s →
    (t.block ≠ s.block →
      (s.phase = .idle ∧ ∃ v, Writing s 0x10 v) ∨ (Completing s ∧ writesBlock (decodeCmd s.pend) = true)) ∧
    (t.key ≠ s.key →
      (s.phase = .idle ∧ ∃ v, Writing s 0x14 v) ∨ (Completing s ∧ writesKey (decodeCmd s.pend) = true)) ∧
    (t.result ≠ s.result → Completing s ∧ writesResult (decodeCmd s.pend) = true ∧ t.err = 0) ∧
    ((t.trace0 ≠ s.trace0 ∨ t.trace1 ≠ s.trace1 ∨ t.trace2 ≠ s.trace2 ∨ t.trace3 ≠ s.trace3) →
      Completing s ∧ writesTrace (decodeCmd s.pend) = true ∧ t.err = 0)

/-- R235, R29, R34, R35: ERR, LENB and LENK change only at a completion or a reset; OVF is set only by a CMD, BLK_DATA or
KEY_DATA write while BUSY = 1, and cleared only by reset; BUSY is 1 exactly in INIT and RUN, and but for a reset IDLE is
left exactly by a CMD write, RUN exactly by the command's completion, both to the other, and INIT exactly by its end, to
IDLE. -/
def Obligations.StatusWriters : Prop :=
  ∀ s t : State, step s = .next t → ¬ Resetting s →
    ((t.err ≠ s.err ∨ t.lenb ≠ s.lenb ∨ t.lenk ≠ s.lenk) → Completing s) ∧
    (s.ovf = true → t.ovf = true) ∧
    (s.ovf = false → (t.ovf = true ↔
      (s.busy = true ∧ ∃ v, Writing s 0x00 v ∨ Writing s 0x10 v ∨ Writing s 0x14 v))) ∧
    (t.busy = true ↔ (t.phase = .init ∨ t.phase = .run)) ∧
    (s.phase = .idle → t.phase ≠ .init ∧ (t.phase = .run ↔ ∃ v, Writing s 0x00 v)) ∧
    (s.phase = .run → t.phase ≠ .init ∧ (t.phase = .idle ↔ Completing s)) ∧
    (s.phase = .init → t.phase ≠ .run ∧ (t.phase = .idle ↔ (s.rem = 0 ∧ CoreNext s)))

/-- R240: over a run in which no reset is asserted, OVF = 0 at the end means OVF = 0 at every point before it. -/
def Obligations.ProtocolKeptThroughout : Prop :=
  ∀ (n k : Nat) (s t u : State), .reset ∉ s.inputs → k ≤ n → SafeRun n s t →
    runs k s = .next u → u.ovf = false

/-- R262: no step changes the tables or any other parameter. -/
def Obligations.ParametersConstant : Prop :=
  ∀ (n : Nat) (s t : State), runs n s = .next t → t.cfg = s.cfg

/-- R281: every busy period ends (that the inputs are finitely many, and that the core moves when none is left, is LOG 1's
choice): from every state that meets `Inv`, with an admitted table, the run reaches IDLE with every
input taken, unless an access of the host itself is refused on the way. -/
def Obligations.BusyPeriodsEnd : Prop :=
  ∀ s : State, Inv s → sboxBijective s.cfg.sbox = true →
    ∃ n, (∃ t, runs n s = .next t ∧ t.phase = .idle ∧ t.inputs = []) ∨
      (∃ r, runs n s = .refused r ∧ hostRefusal r = true)

/-- R38, R248: a step of one instance changes no other instance, and steps of two instances may be taken in either order. -/
def Obligations.InstancesAreIndependent : Prop :=
  ∀ (y y₁ y₂ : System) (j k : Nat), j ≠ k →
    (systemStep j y = .next y₁ → y₁.insts.length = y.insts.length ∧ y₁.insts[k]? = y.insts[k]?) ∧
    (systemStep j y = .next y₁ → systemStep k y₁ = .next y₂ →
      ∃ z, systemStep k y = .next z ∧ systemStep j z = .next y₂)

/-- R51, R71, R53: an access by host address reaches the one instance whose window holds the address, as the offset from
its BASE, and no other; an access at an address in no window is refused. -/
def Obligations.AccessReachesItsWindow : Prop :=
  ∀ (y : System) (agent : Nat) (a : Access), systemWf y = true →
    (∀ (k : Nat) (s : State), y.insts[k]? = some s → inWindow s (accessAddr a) = true →
      ∃ z, systemIssue agent a y = .next z ∧
        z.insts[k]? = some { s with inputs := s.inputs ++ [.access agent (relocate s.cfg.base a)] } ∧
        ∀ j, j ≠ k → z.insts[j]? = y.insts[j]?) ∧
    ((∀ s ∈ y.insts, inWindow s (accessAddr a) = false) → systemIssue agent a y = .refused .outsideWindow)

/-- R89 and R91: the assembler's word for each of the fifteen mnemonics, its rejection of an operand given to a command
that takes none, of the illegal words and of what is no command, and every expansion. -/
def Obligations.AssemblerWords : Prop :=
  (∀ a b : Byte, assemble (.gfmul a b) = some (commandFormula 0x1 a b)) ∧
  (∀ a b : Byte, assemble (.sbox a b) = if b = 0 then some (commandFormula 0x2 a 0) else none) ∧
  (∀ a b : Byte, assemble (.isbox a b) = if b = 0 then some (commandFormula 0x3 a 0) else none) ∧
  (∀ a b : Byte,
    ∀ p ∈ [(Instr.nop a b, 0x00000000#32), (.subb a b, 0x00000004), (.isubb a b, 0x00000005), (.shr a b, 0x00000006),
        (.ishr a b, 0x00000007), (.mixc a b, 0x00000008), (.imixc a b, 0x00000009), (.ark a b, 0x0000000A),
        (.enc a b, 0x0000000B), (.dec a b, 0x0000000C), (.clrb a b, 0x0000000D), (.clrk a b, 0x0000000E)],
      assemble p.1 = if a = 0 ∧ b = 0 then some p.2 else none) ∧
  (∀ i, legalCommand i = false → assemble i = none) ∧
  (∀ i w x l, assemble i = some w →
    expand (.command i) = some [.wr .cmd w] ∧
    expand (.run i x l) = some [.wr .cmd w, .label l, .rd .status x, .bnz x 0x1 l]) ∧
  (∀ i x l, assemble i = none → expand (.command i) = none ∧ expand (.run i x l) = none) ∧
  (∀ h, expand (.stmt h) = some [h]) ∧ (∀ v, expand (.word v) = some [.wr .cmd v]) ∧
  (∀ x l, expand (.poll x l) = some [.label l, .rd .status x, .bnz x 0x1 l]) ∧
  (∀ h : List Byte, expand (.ldb h) = some (h.map fun d => .wr .blkData (d.setWidth 32))) ∧
  (∀ h : List Byte, expand (.ldk h) = some (h.map fun d => .wr .keyData (d.setWidth 32))) ∧
  (∀ x, expand (.rdst x) =
    some [.rd (.stateW 0) x, .rd (.stateW 1) (x + 1), .rd (.stateW 2) (x + 2), .rd (.stateW 3) (x + 3)]) ∧
  (∀ t x, expand (.rdtr t x) =
    some [.rd (.traceW t 0) x, .rd (.traceW t 1) (x + 1), .rd (.traceW t 2) (x + 2), .rd (.traceW t 3) (x + 3)])
end

