-- ==== Sys2Proof/Laws/Decode.lean ====
section
/-! SUPPORT. The laws of decoding: the fields of a packed word, which accesses decode, and that a command word never
decodes to a window access nor the other way round. -/

namespace Sys2Proof

/-! ## Fields of a word (R80) -/

/-- Bit i of a packed word, by the field it lies in (R80). -/
theorem packCmd_getLsbD (rsv1 b a : Byte) (rsv0 op : Nibble) (i : Nat) :
    (packCmd rsv1 b a rsv0 op).getLsbD i =
      if i < 4 then op.getLsbD i else if i < 8 then rsv0.getLsbD (i - 4) else if i < 16 then a.getLsbD (i - 8)
      else if i < 24 then b.getLsbD (i - 16) else rsv1.getLsbD (i - 24) := by
  simp only [packCmd, BitVec.getLsbD_append]
  by_cases h1 : i < 4
  · simp only [if_pos h1]
  by_cases h2 : i < 8
  · simp only [if_neg h1, if_pos h2, if_pos (show i - 4 < 4 by omega)]
  by_cases h3 : i < 16
  · simp only [if_neg h1, if_neg h2, if_pos h3, if_neg (show ¬ i - 4 < 4 by omega), show i - 4 - 4 = i - 8 by omega,
      if_pos (show i - 8 < 8 by omega)]
  by_cases h4 : i < 24
  · simp only [if_neg h1, if_neg h2, if_neg h3, if_pos h4, if_neg (show ¬ i - 4 < 4 by omega),
      show i - 4 - 4 = i - 8 by omega, if_neg (show ¬ i - 8 < 8 by omega), show i - 8 - 8 = i - 16 by omega,
      if_pos (show i - 16 < 8 by omega)]
  · simp only [if_neg h1, if_neg h2, if_neg h3, if_neg h4, if_neg (show ¬ i - 4 < 4 by omega),
      show i - 4 - 4 = i - 8 by omega, if_neg (show ¬ i - 8 < 8 by omega), show i - 8 - 8 = i - 16 by omega,
      if_neg (show ¬ i - 16 < 8 by omega), show i - 16 - 8 = i - 24 by omega]

section
variable (rsv1 b a : Byte) (rsv0 op : Nibble)

@[simp] theorem opField_packCmd : opField (packCmd rsv1 b a rsv0 op) = op := by
  apply BitVec.eq_of_getLsbD_eq
  intro i hi
  simp only [opField, BitVec.getLsbD_extractLsb', packCmd_getLsbD, hi, decide_true, Bool.true_and]
  rw [if_pos (by omega)]
  congr 1
  omega

@[simp] theorem rsv0Field_packCmd : rsv0Field (packCmd rsv1 b a rsv0 op) = rsv0 := by
  apply BitVec.eq_of_getLsbD_eq
  intro i hi
  simp only [rsv0Field, BitVec.getLsbD_extractLsb', packCmd_getLsbD, hi, decide_true, Bool.true_and]
  rw [if_neg (by omega), if_pos (by omega)]
  congr 1
  omega

@[simp] theorem operandA_packCmd : operandA (packCmd rsv1 b a rsv0 op) = a := by
  apply BitVec.eq_of_getLsbD_eq
  intro i hi
  simp only [operandA, BitVec.getLsbD_extractLsb', packCmd_getLsbD, hi, decide_true, Bool.true_and]
  rw [if_neg (by omega), if_neg (by omega), if_pos (by omega)]
  congr 1
  omega

@[simp] theorem operandB_packCmd : operandB (packCmd rsv1 b a rsv0 op) = b := by
  apply BitVec.eq_of_getLsbD_eq
  intro i hi
  simp only [operandB, BitVec.getLsbD_extractLsb', packCmd_getLsbD, hi, decide_true, Bool.true_and]
  rw [if_neg (by omega), if_neg (by omega), if_neg (by omega), if_pos (by omega)]
  congr 1
  omega

@[simp] theorem rsv1Field_packCmd : rsv1Field (packCmd rsv1 b a rsv0 op) = rsv1 := by
  apply BitVec.eq_of_getLsbD_eq
  intro i hi
  simp only [rsv1Field, BitVec.getLsbD_extractLsb', packCmd_getLsbD, hi, decide_true, Bool.true_and]
  rw [if_neg (by omega), if_neg (by omega), if_neg (by omega), if_neg (by omega)]
  congr 1
  omega

end

/-- A word is its five fields put together (R80). -/
theorem packCmd_fields (w : Word) :
    packCmd (rsv1Field w) (operandB w) (operandA w) (rsv0Field w) (opField w) = w := by
  apply BitVec.eq_of_getLsbD_eq
  intro i hi
  simp only [packCmd_getLsbD, rsv1Field, operandB, operandA, rsv0Field, opField, BitVec.getLsbD_extractLsb']
  split
  · simp [*]
  · split
    · simp [show i - 4 < 4 by omega, show 4 + (i - 4) = i by omega]
    · split
      · simp [show i - 8 < 8 by omega, show 8 + (i - 8) = i by omega]
      · split
        · simp [show i - 16 < 8 by omega, show 16 + (i - 16) = i by omega]
        · simp [show i - 24 < 8 by omega, show 24 + (i - 24) = i by omega]

/-! ## What decodes to what -/

/-- The answer of the access check (R53). -/
theorem checkAccess_eq (width : Width) (off : Int) (n : Nat) :
    checkAccess width off = .ok n ↔ (width = .word ∧ 0 ≤ off ∧ off ≤ 0x7C ∧ off % 4 = 0 ∧ n = off.toNat) := by
  unfold checkAccess
  split
  · simp_all
  · split
    · simp; omega
    · split
      · simp; omega
      · simp; grind

theorem decodeOp_isCommand (op : Nibble) (a b : Byte) : (decodeOp op a b).isCommand = true := by
  unfold decodeOp
  split <;> rfl

/-- Every command word decodes to a command or an illegal word (R85). -/
theorem decodeCmd_isCommand (w : Word) : (decodeCmd w).isCommand = true := by
  unfold decodeCmd
  split
  · rfl
  · exact decodeOp_isCommand _ _ _

/-- A 32-bit write at offset 0 is a command word (R32, R80). -/
theorem decode_cmd (v : Word) : decode (.write .word 0 v) = .ok (decodeCmd v) := rfl

/-- A word whose reserved fields are 0 decodes by its opcode (R84). -/
theorem decodeCmd_cmdWord (op : Nibble) (a b : Byte) : decodeCmd (cmdWord op a b) = decodeOp op a b := by
  unfold decodeCmd cmdWord
  rw [if_neg (by simp), opField_packCmd, operandA_packCmd, operandB_packCmd]

/-- A word with a nonzero reserved field (R84). -/
theorem decodeCmd_reserved {rsv1 b a : Byte} {rsv0 op : Nibble} (h : rsv0 ≠ 0 ∨ rsv1 ≠ 0) :
    decodeCmd (packCmd rsv1 b a rsv0 op) = .reservedFields rsv1 b a rsv0 op := by
  unfold decodeCmd
  rw [if_pos (by simpa using h), opField_packCmd, operandA_packCmd, operandB_packCmd, rsv0Field_packCmd,
    rsv1Field_packCmd]

theorem decodeRead_not_command (off : Nat) : (decodeRead off).isCommand = false := by
  unfold decodeRead
  repeat' split
  all_goals rfl

/-- Only a write at offset 0 carries a command. -/
theorem decode_command {a : Access} {i : Instr} (h : decode a = .ok i) (hi : i.isCommand = true) :
    a = .write .word 0 a.data ∧ i = decodeCmd a.data := by
  cases a with
  | read width off =>
    simp only [decode] at h
    split at h
    · cases h; rw [decodeRead_not_command] at hi; cases hi
    · cases h
  | write width off v =>
    simp only [decode] at h
    split at h
    · rename_i n hn
      obtain ⟨rfl, h0, -, -, rfl⟩ := (checkAccess_eq _ _ _).1 hn
      cases h
      unfold decodeWrite at hi ⊢
      by_cases h1 : off.toNat = 0
      · have : off = 0 := by omega
        subst this
        exact ⟨rfl, by simp [Access.data]⟩
      · rw [if_neg h1] at hi
        split at hi
        · cases hi
        · split at hi <;> cases hi
    · cases h

end Sys2Proof
end

