-- ==== Sys2Proof/Laws/Matrix.lean ====
section
/-! SUPPORT. The laws of columns and matrices: reading what was built, equality byte by byte, the loaders. -/

namespace Sys2Proof.Machine

@[simp] theorem Col.get_ofFn (f : Fin 4 → Byte) (r : Fin 4) : (Col.ofFn f).get r = f r := by
  fin_cases r <;> rfl

@[simp] theorem Col.ofFn_get (x : Col) : Col.ofFn x.get = x := rfl

theorem Col.ext_get {x y : Col} (h : ∀ r, x.get r = y.get r) : x = y := by
  rw [← Col.ofFn_get x, ← Col.ofFn_get y, funext h]

@[simp] theorem Mat.col_ofCols (f : Fin 4 → Col) (c : Fin 4) : (Mat.ofCols f).col c = f c := by
  fin_cases c <;> rfl

@[simp] theorem Mat.ofCols_col (S : Mat) : Mat.ofCols S.col = S := rfl

theorem Mat.ext_col {S T : Mat} (h : ∀ c, S.col c = T.col c) : S = T := by
  rw [← Mat.ofCols_col S, ← Mat.ofCols_col T, funext h]

@[simp] theorem Mat.get_ofFn (f : Fin 4 → Fin 4 → Byte) (r c : Fin 4) : (Mat.ofFn f).get r c = f r c := by
  simp [Mat.ofFn, Mat.get]

@[simp] theorem Mat.ofFn_get (S : Mat) : Mat.ofFn S.get = S := rfl

theorem Mat.ext_get {S T : Mat} (h : ∀ r c, S.get r c = T.get r c) : S = T :=
  Mat.ext_col fun c => Col.ext_get fun r => h r c

@[simp] theorem Mat.zero_get (r c : Fin 4) : Mat.zero.get r c = 0 := by
  fin_cases r <;> fin_cases c <;> rfl

@[simp] theorem Mat.zero_flat (i : Nat) : Mat.zero.flat i = 0 := Mat.zero_get _ _

theorem Mat.get_set (S : Mat) (r c r' c' : Fin 4) (v : Byte) :
    (S.set r c v).get r' c' = if r' = r ∧ c' = c then v else S.get r' c' := by
  simp [Mat.set]

/-- Below 16 a flat index and its row and column determine each other (R12). -/
theorem flat_inj {i j : Nat} (hi : i < 16) (hj : j < 16) :
    (flatRow i = flatRow j ∧ flatCol i = flatCol j) ↔ i = j := by
  simp only [flatRow, flatCol, Fin.ext_iff, Fin.ofNat]
  omega

theorem Mat.flat_set (S : Mat) {i j : Nat} (hi : i < 16) (hj : j < 16) (v : Byte) :
    (S.set (flatRow i) (flatCol i) v).flat j = if j = i then v else S.flat j := by
  simp only [Mat.flat, Mat.get_set, flat_inj hj hi]

/-- A loader writes flat index `cnt` and nothing else; from 16 on it writes nothing (R140). -/
theorem loadByte_flat (S : Mat) (cnt : BitVec 5) (d : Byte) {i : Nat} (hi : i < 16) :
    (loadByte S cnt d).flat i = if i = cnt.toNat then d else S.flat i := by
  unfold loadByte loadRow loadCol
  split
  · exact S.flat_set ‹_› hi d
  · rw [if_neg (by omega)]

/-- A loader's counter goes up by one and saturates at 31 (R24). -/
theorem countByte_toNat (cnt : BitVec 5) : (countByte cnt).toNat = min (cnt.toNat + 1) 31 := by
  have := cnt.isLt
  unfold countByte
  split
  · rw [BitVec.toNat_add]; simp; omega
  · omega

end Sys2Proof.Machine
end

