-- ==== Sys2Proof/Laws/State.lean ====
section
/-! SUPPORT. What each shared operation does to each field of `State`, one lemma a field, so that no proof unfolds a record
update; `succeed` and the `raise` operations are `finish`. -/

namespace Sys2Proof.Machine

@[simp] theorem succeed_eq (s : State) : succeed s = finish 0 false false s := rfl

@[simp] theorem raiseInvalidLength_eq (lb lk : Bool) (s : State) :
    raiseInvalidLength lb lk s = finish 1 lb lk s := rfl

@[simp] theorem raiseIllegalCommand_eq (s : State) : raiseIllegalCommand s = finish 2 false false s := rfl

/-! ## finish -/

section
variable (e : Nibble) (lb lk : Bool) (s : State)

@[simp] theorem finish_cfg : (finish e lb lk s).cfg = s.cfg := rfl
@[simp] theorem finish_block : (finish e lb lk s).block = s.block := rfl
@[simp] theorem finish_key : (finish e lb lk s).key = s.key := rfl
@[simp] theorem finish_blkCnt : (finish e lb lk s).blkCnt = s.blkCnt := rfl
@[simp] theorem finish_keyCnt : (finish e lb lk s).keyCnt = s.keyCnt := rfl
@[simp] theorem finish_result : (finish e lb lk s).result = s.result := rfl
@[simp] theorem finish_trace0 : (finish e lb lk s).trace0 = s.trace0 := rfl
@[simp] theorem finish_trace1 : (finish e lb lk s).trace1 = s.trace1 := rfl
@[simp] theorem finish_trace2 : (finish e lb lk s).trace2 = s.trace2 := rfl
@[simp] theorem finish_trace3 : (finish e lb lk s).trace3 = s.trace3 := rfl
@[simp] theorem finish_ovf : (finish e lb lk s).ovf = s.ovf := rfl
@[simp] theorem finish_err : (finish e lb lk s).err = e := rfl
@[simp] theorem finish_lenb : (finish e lb lk s).lenb = lb := rfl
@[simp] theorem finish_lenk : (finish e lb lk s).lenk = lk := rfl
@[simp] theorem finish_phase : (finish e lb lk s).phase = .idle := rfl
@[simp] theorem finish_pend : (finish e lb lk s).pend = Config.pendValue s.cfg.base s.draws := rfl
@[simp] theorem finish_rem : (finish e lb lk s).rem = s.rem := rfl
@[simp] theorem finish_draws : (finish e lb lk s).draws = s.draws + 1 := rfl
@[simp] theorem finish_owner : (finish e lb lk s).owner = s.owner := rfl
@[simp] theorem finish_inputs : (finish e lb lk s).inputs = s.inputs := rfl
@[simp] theorem finish_hostReads : (finish e lb lk s).hostReads = s.hostReads := rfl

end

/-! ## onBlock -/

section
variable (f : Mat → Mat) (s : State)

@[simp] theorem onBlock_cfg : (onBlock f s).cfg = s.cfg := rfl
@[simp] theorem onBlock_block : (onBlock f s).block = f s.block := rfl
@[simp] theorem onBlock_key : (onBlock f s).key = s.key := rfl
@[simp] theorem onBlock_blkCnt : (onBlock f s).blkCnt = s.blkCnt := rfl
@[simp] theorem onBlock_keyCnt : (onBlock f s).keyCnt = s.keyCnt := rfl
@[simp] theorem onBlock_result : (onBlock f s).result = s.result := rfl
@[simp] theorem onBlock_trace0 : (onBlock f s).trace0 = s.trace0 := rfl
@[simp] theorem onBlock_trace1 : (onBlock f s).trace1 = s.trace1 := rfl
@[simp] theorem onBlock_trace2 : (onBlock f s).trace2 = s.trace2 := rfl
@[simp] theorem onBlock_trace3 : (onBlock f s).trace3 = s.trace3 := rfl
@[simp] theorem onBlock_ovf : (onBlock f s).ovf = s.ovf := rfl
@[simp] theorem onBlock_err : (onBlock f s).err = s.err := rfl
@[simp] theorem onBlock_lenb : (onBlock f s).lenb = s.lenb := rfl
@[simp] theorem onBlock_lenk : (onBlock f s).lenk = s.lenk := rfl
@[simp] theorem onBlock_phase : (onBlock f s).phase = s.phase := rfl
@[simp] theorem onBlock_pend : (onBlock f s).pend = s.pend := rfl
@[simp] theorem onBlock_rem : (onBlock f s).rem = s.rem := rfl
@[simp] theorem onBlock_draws : (onBlock f s).draws = s.draws := rfl
@[simp] theorem onBlock_owner : (onBlock f s).owner = s.owner := rfl
@[simp] theorem onBlock_inputs : (onBlock f s).inputs = s.inputs := rfl
@[simp] theorem onBlock_hostReads : (onBlock f s).hostReads = s.hostReads := rfl

end

/-! ## putStages -/

section
variable (g : Stages) (s : State)

@[simp] theorem putStages_cfg : (putStages g s).cfg = s.cfg := rfl
@[simp] theorem putStages_block : (putStages g s).block = g.s3 := rfl
@[simp] theorem putStages_key : (putStages g s).key = s.key := rfl
@[simp] theorem putStages_blkCnt : (putStages g s).blkCnt = s.blkCnt := rfl
@[simp] theorem putStages_keyCnt : (putStages g s).keyCnt = s.keyCnt := rfl
@[simp] theorem putStages_result : (putStages g s).result = s.result := rfl
@[simp] theorem putStages_trace0 : (putStages g s).trace0 = g.s0 := rfl
@[simp] theorem putStages_trace1 : (putStages g s).trace1 = g.s1 := rfl
@[simp] theorem putStages_trace2 : (putStages g s).trace2 = g.s2 := rfl
@[simp] theorem putStages_trace3 : (putStages g s).trace3 = g.s3 := rfl
@[simp] theorem putStages_ovf : (putStages g s).ovf = s.ovf := rfl
@[simp] theorem putStages_err : (putStages g s).err = s.err := rfl
@[simp] theorem putStages_lenb : (putStages g s).lenb = s.lenb := rfl
@[simp] theorem putStages_lenk : (putStages g s).lenk = s.lenk := rfl
@[simp] theorem putStages_phase : (putStages g s).phase = s.phase := rfl
@[simp] theorem putStages_pend : (putStages g s).pend = s.pend := rfl
@[simp] theorem putStages_rem : (putStages g s).rem = s.rem := rfl
@[simp] theorem putStages_draws : (putStages g s).draws = s.draws := rfl
@[simp] theorem putStages_owner : (putStages g s).owner = s.owner := rfl
@[simp] theorem putStages_inputs : (putStages g s).inputs = s.inputs := rfl
@[simp] theorem putStages_hostReads : (putStages g s).hostReads = s.hostReads := rfl

end

/-! ## putResult -/

section
variable (v : Byte) (s : State)

@[simp] theorem putResult_cfg : (putResult v s).cfg = s.cfg := rfl
@[simp] theorem putResult_block : (putResult v s).block = s.block := rfl
@[simp] theorem putResult_key : (putResult v s).key = s.key := rfl
@[simp] theorem putResult_blkCnt : (putResult v s).blkCnt = s.blkCnt := rfl
@[simp] theorem putResult_keyCnt : (putResult v s).keyCnt = s.keyCnt := rfl
@[simp] theorem putResult_result : (putResult v s).result = v := rfl
@[simp] theorem putResult_trace0 : (putResult v s).trace0 = s.trace0 := rfl
@[simp] theorem putResult_trace1 : (putResult v s).trace1 = s.trace1 := rfl
@[simp] theorem putResult_trace2 : (putResult v s).trace2 = s.trace2 := rfl
@[simp] theorem putResult_trace3 : (putResult v s).trace3 = s.trace3 := rfl
@[simp] theorem putResult_ovf : (putResult v s).ovf = s.ovf := rfl
@[simp] theorem putResult_err : (putResult v s).err = s.err := rfl
@[simp] theorem putResult_lenb : (putResult v s).lenb = s.lenb := rfl
@[simp] theorem putResult_lenk : (putResult v s).lenk = s.lenk := rfl
@[simp] theorem putResult_phase : (putResult v s).phase = s.phase := rfl
@[simp] theorem putResult_pend : (putResult v s).pend = s.pend := rfl
@[simp] theorem putResult_rem : (putResult v s).rem = s.rem := rfl
@[simp] theorem putResult_draws : (putResult v s).draws = s.draws := rfl
@[simp] theorem putResult_owner : (putResult v s).owner = s.owner := rfl
@[simp] theorem putResult_inputs : (putResult v s).inputs = s.inputs := rfl
@[simp] theorem putResult_hostReads : (putResult v s).hostReads = s.hostReads := rfl

end

/-! ## clearBlock -/

section
variable (s : State)

@[simp] theorem clearBlock_cfg : (clearBlock s).cfg = s.cfg := rfl
@[simp] theorem clearBlock_block : (clearBlock s).block = Mat.zero := rfl
@[simp] theorem clearBlock_key : (clearBlock s).key = s.key := rfl
@[simp] theorem clearBlock_blkCnt : (clearBlock s).blkCnt = 0 := rfl
@[simp] theorem clearBlock_keyCnt : (clearBlock s).keyCnt = s.keyCnt := rfl
@[simp] theorem clearBlock_result : (clearBlock s).result = s.result := rfl
@[simp] theorem clearBlock_trace0 : (clearBlock s).trace0 = s.trace0 := rfl
@[simp] theorem clearBlock_trace1 : (clearBlock s).trace1 = s.trace1 := rfl
@[simp] theorem clearBlock_trace2 : (clearBlock s).trace2 = s.trace2 := rfl
@[simp] theorem clearBlock_trace3 : (clearBlock s).trace3 = s.trace3 := rfl
@[simp] theorem clearBlock_ovf : (clearBlock s).ovf = s.ovf := rfl
@[simp] theorem clearBlock_err : (clearBlock s).err = s.err := rfl
@[simp] theorem clearBlock_lenb : (clearBlock s).lenb = s.lenb := rfl
@[simp] theorem clearBlock_lenk : (clearBlock s).lenk = s.lenk := rfl
@[simp] theorem clearBlock_phase : (clearBlock s).phase = s.phase := rfl
@[simp] theorem clearBlock_pend : (clearBlock s).pend = s.pend := rfl
@[simp] theorem clearBlock_rem : (clearBlock s).rem = s.rem := rfl
@[simp] theorem clearBlock_draws : (clearBlock s).draws = s.draws := rfl
@[simp] theorem clearBlock_owner : (clearBlock s).owner = s.owner := rfl
@[simp] theorem clearBlock_inputs : (clearBlock s).inputs = s.inputs := rfl
@[simp] theorem clearBlock_hostReads : (clearBlock s).hostReads = s.hostReads := rfl

end

/-! ## clearKey -/

section
variable (s : State)

@[simp] theorem clearKey_cfg : (clearKey s).cfg = s.cfg := rfl
@[simp] theorem clearKey_block : (clearKey s).block = s.block := rfl
@[simp] theorem clearKey_key : (clearKey s).key = Mat.zero := rfl
@[simp] theorem clearKey_blkCnt : (clearKey s).blkCnt = s.blkCnt := rfl
@[simp] theorem clearKey_keyCnt : (clearKey s).keyCnt = 0 := rfl
@[simp] theorem clearKey_result : (clearKey s).result = s.result := rfl
@[simp] theorem clearKey_trace0 : (clearKey s).trace0 = s.trace0 := rfl
@[simp] theorem clearKey_trace1 : (clearKey s).trace1 = s.trace1 := rfl
@[simp] theorem clearKey_trace2 : (clearKey s).trace2 = s.trace2 := rfl
@[simp] theorem clearKey_trace3 : (clearKey s).trace3 = s.trace3 := rfl
@[simp] theorem clearKey_ovf : (clearKey s).ovf = s.ovf := rfl
@[simp] theorem clearKey_err : (clearKey s).err = s.err := rfl
@[simp] theorem clearKey_lenb : (clearKey s).lenb = s.lenb := rfl
@[simp] theorem clearKey_lenk : (clearKey s).lenk = s.lenk := rfl
@[simp] theorem clearKey_phase : (clearKey s).phase = s.phase := rfl
@[simp] theorem clearKey_pend : (clearKey s).pend = s.pend := rfl
@[simp] theorem clearKey_rem : (clearKey s).rem = s.rem := rfl
@[simp] theorem clearKey_draws : (clearKey s).draws = s.draws := rfl
@[simp] theorem clearKey_owner : (clearKey s).owner = s.owner := rfl
@[simp] theorem clearKey_inputs : (clearKey s).inputs = s.inputs := rfl
@[simp] theorem clearKey_hostReads : (clearKey s).hostReads = s.hostReads := rfl

end

/-! ## dropWrite -/

section
variable (s : State)

@[simp] theorem dropWrite_cfg : (dropWrite s).cfg = s.cfg := rfl
@[simp] theorem dropWrite_block : (dropWrite s).block = s.block := rfl
@[simp] theorem dropWrite_key : (dropWrite s).key = s.key := rfl
@[simp] theorem dropWrite_blkCnt : (dropWrite s).blkCnt = s.blkCnt := rfl
@[simp] theorem dropWrite_keyCnt : (dropWrite s).keyCnt = s.keyCnt := rfl
@[simp] theorem dropWrite_result : (dropWrite s).result = s.result := rfl
@[simp] theorem dropWrite_trace0 : (dropWrite s).trace0 = s.trace0 := rfl
@[simp] theorem dropWrite_trace1 : (dropWrite s).trace1 = s.trace1 := rfl
@[simp] theorem dropWrite_trace2 : (dropWrite s).trace2 = s.trace2 := rfl
@[simp] theorem dropWrite_trace3 : (dropWrite s).trace3 = s.trace3 := rfl
@[simp] theorem dropWrite_ovf : (dropWrite s).ovf = true := rfl
@[simp] theorem dropWrite_err : (dropWrite s).err = s.err := rfl
@[simp] theorem dropWrite_lenb : (dropWrite s).lenb = s.lenb := rfl
@[simp] theorem dropWrite_lenk : (dropWrite s).lenk = s.lenk := rfl
@[simp] theorem dropWrite_phase : (dropWrite s).phase = s.phase := rfl
@[simp] theorem dropWrite_pend : (dropWrite s).pend = s.pend := rfl
@[simp] theorem dropWrite_rem : (dropWrite s).rem = s.rem := rfl
@[simp] theorem dropWrite_draws : (dropWrite s).draws = s.draws := rfl
@[simp] theorem dropWrite_owner : (dropWrite s).owner = s.owner := rfl
@[simp] theorem dropWrite_inputs : (dropWrite s).inputs = s.inputs := rfl
@[simp] theorem dropWrite_hostReads : (dropWrite s).hostReads = s.hostReads := rfl

end

/-! ## loadBlock -/

section
variable (v : Word) (s : State)

@[simp] theorem loadBlock_cfg : (loadBlock v s).cfg = s.cfg := rfl
@[simp] theorem loadBlock_block : (loadBlock v s).block = loadByte s.block s.blkCnt (dataByte v) := rfl
@[simp] theorem loadBlock_key : (loadBlock v s).key = s.key := rfl
@[simp] theorem loadBlock_blkCnt : (loadBlock v s).blkCnt = countByte s.blkCnt := rfl
@[simp] theorem loadBlock_keyCnt : (loadBlock v s).keyCnt = s.keyCnt := rfl
@[simp] theorem loadBlock_result : (loadBlock v s).result = s.result := rfl
@[simp] theorem loadBlock_trace0 : (loadBlock v s).trace0 = s.trace0 := rfl
@[simp] theorem loadBlock_trace1 : (loadBlock v s).trace1 = s.trace1 := rfl
@[simp] theorem loadBlock_trace2 : (loadBlock v s).trace2 = s.trace2 := rfl
@[simp] theorem loadBlock_trace3 : (loadBlock v s).trace3 = s.trace3 := rfl
@[simp] theorem loadBlock_ovf : (loadBlock v s).ovf = s.ovf := rfl
@[simp] theorem loadBlock_err : (loadBlock v s).err = s.err := rfl
@[simp] theorem loadBlock_lenb : (loadBlock v s).lenb = s.lenb := rfl
@[simp] theorem loadBlock_lenk : (loadBlock v s).lenk = s.lenk := rfl
@[simp] theorem loadBlock_phase : (loadBlock v s).phase = s.phase := rfl
@[simp] theorem loadBlock_pend : (loadBlock v s).pend = s.pend := rfl
@[simp] theorem loadBlock_rem : (loadBlock v s).rem = s.rem := rfl
@[simp] theorem loadBlock_draws : (loadBlock v s).draws = s.draws := rfl
@[simp] theorem loadBlock_owner : (loadBlock v s).owner = s.owner := rfl
@[simp] theorem loadBlock_inputs : (loadBlock v s).inputs = s.inputs := rfl
@[simp] theorem loadBlock_hostReads : (loadBlock v s).hostReads = s.hostReads := rfl

end

/-! ## loadKey -/

section
variable (v : Word) (s : State)

@[simp] theorem loadKey_cfg : (loadKey v s).cfg = s.cfg := rfl
@[simp] theorem loadKey_block : (loadKey v s).block = s.block := rfl
@[simp] theorem loadKey_key : (loadKey v s).key = loadByte s.key s.keyCnt (dataByte v) := rfl
@[simp] theorem loadKey_blkCnt : (loadKey v s).blkCnt = s.blkCnt := rfl
@[simp] theorem loadKey_keyCnt : (loadKey v s).keyCnt = countByte s.keyCnt := rfl
@[simp] theorem loadKey_result : (loadKey v s).result = s.result := rfl
@[simp] theorem loadKey_trace0 : (loadKey v s).trace0 = s.trace0 := rfl
@[simp] theorem loadKey_trace1 : (loadKey v s).trace1 = s.trace1 := rfl
@[simp] theorem loadKey_trace2 : (loadKey v s).trace2 = s.trace2 := rfl
@[simp] theorem loadKey_trace3 : (loadKey v s).trace3 = s.trace3 := rfl
@[simp] theorem loadKey_ovf : (loadKey v s).ovf = s.ovf := rfl
@[simp] theorem loadKey_err : (loadKey v s).err = s.err := rfl
@[simp] theorem loadKey_lenb : (loadKey v s).lenb = s.lenb := rfl
@[simp] theorem loadKey_lenk : (loadKey v s).lenk = s.lenk := rfl
@[simp] theorem loadKey_phase : (loadKey v s).phase = s.phase := rfl
@[simp] theorem loadKey_pend : (loadKey v s).pend = s.pend := rfl
@[simp] theorem loadKey_rem : (loadKey v s).rem = s.rem := rfl
@[simp] theorem loadKey_draws : (loadKey v s).draws = s.draws := rfl
@[simp] theorem loadKey_owner : (loadKey v s).owner = s.owner := rfl
@[simp] theorem loadKey_inputs : (loadKey v s).inputs = s.inputs := rfl
@[simp] theorem loadKey_hostReads : (loadKey v s).hostReads = s.hostReads := rfl

end

/-! ## startCmd -/

section
variable (v : Word) (s : State)

@[simp] theorem startCmd_cfg : (startCmd v s).cfg = s.cfg := rfl
@[simp] theorem startCmd_block : (startCmd v s).block = s.block := rfl
@[simp] theorem startCmd_key : (startCmd v s).key = s.key := rfl
@[simp] theorem startCmd_blkCnt : (startCmd v s).blkCnt = s.blkCnt := rfl
@[simp] theorem startCmd_keyCnt : (startCmd v s).keyCnt = s.keyCnt := rfl
@[simp] theorem startCmd_result : (startCmd v s).result = s.result := rfl
@[simp] theorem startCmd_trace0 : (startCmd v s).trace0 = s.trace0 := rfl
@[simp] theorem startCmd_trace1 : (startCmd v s).trace1 = s.trace1 := rfl
@[simp] theorem startCmd_trace2 : (startCmd v s).trace2 = s.trace2 := rfl
@[simp] theorem startCmd_trace3 : (startCmd v s).trace3 = s.trace3 := rfl
@[simp] theorem startCmd_ovf : (startCmd v s).ovf = s.ovf := rfl
@[simp] theorem startCmd_err : (startCmd v s).err = s.err := rfl
@[simp] theorem startCmd_lenb : (startCmd v s).lenb = s.lenb := rfl
@[simp] theorem startCmd_lenk : (startCmd v s).lenk = s.lenk := rfl
@[simp] theorem startCmd_phase : (startCmd v s).phase = .run := rfl
@[simp] theorem startCmd_pend : (startCmd v s).pend = v := rfl
@[simp] theorem startCmd_rem : (startCmd v s).rem = latency s.cfg (operandsOf v s) := rfl
@[simp] theorem startCmd_draws : (startCmd v s).draws = s.draws := rfl
@[simp] theorem startCmd_owner : (startCmd v s).owner = s.owner := rfl
@[simp] theorem startCmd_inputs : (startCmd v s).inputs = s.inputs := rfl
@[simp] theorem startCmd_hostReads : (startCmd v s).hostReads = s.hostReads := rfl

end

/-! ## deliver -/

section
variable (w : Word) (s : State)

@[simp] theorem deliver_cfg : (deliver w s).cfg = s.cfg := rfl
@[simp] theorem deliver_block : (deliver w s).block = s.block := rfl
@[simp] theorem deliver_key : (deliver w s).key = s.key := rfl
@[simp] theorem deliver_blkCnt : (deliver w s).blkCnt = s.blkCnt := rfl
@[simp] theorem deliver_keyCnt : (deliver w s).keyCnt = s.keyCnt := rfl
@[simp] theorem deliver_result : (deliver w s).result = s.result := rfl
@[simp] theorem deliver_trace0 : (deliver w s).trace0 = s.trace0 := rfl
@[simp] theorem deliver_trace1 : (deliver w s).trace1 = s.trace1 := rfl
@[simp] theorem deliver_trace2 : (deliver w s).trace2 = s.trace2 := rfl
@[simp] theorem deliver_trace3 : (deliver w s).trace3 = s.trace3 := rfl
@[simp] theorem deliver_ovf : (deliver w s).ovf = s.ovf := rfl
@[simp] theorem deliver_err : (deliver w s).err = s.err := rfl
@[simp] theorem deliver_lenb : (deliver w s).lenb = s.lenb := rfl
@[simp] theorem deliver_lenk : (deliver w s).lenk = s.lenk := rfl
@[simp] theorem deliver_phase : (deliver w s).phase = s.phase := rfl
@[simp] theorem deliver_pend : (deliver w s).pend = s.pend := rfl
@[simp] theorem deliver_rem : (deliver w s).rem = s.rem := rfl
@[simp] theorem deliver_draws : (deliver w s).draws = s.draws := rfl
@[simp] theorem deliver_owner : (deliver w s).owner = s.owner := rfl
@[simp] theorem deliver_inputs : (deliver w s).inputs = s.inputs := rfl
@[simp] theorem deliver_hostReads : (deliver w s).hostReads = w :: s.hostReads := rfl

end

/-! ## deliverUnspecified -/

section
variable (s : State)

@[simp] theorem deliverUnspecified_cfg : (deliverUnspecified s).cfg = s.cfg := rfl
@[simp] theorem deliverUnspecified_block : (deliverUnspecified s).block = s.block := rfl
@[simp] theorem deliverUnspecified_key : (deliverUnspecified s).key = s.key := rfl
@[simp] theorem deliverUnspecified_blkCnt : (deliverUnspecified s).blkCnt = s.blkCnt := rfl
@[simp] theorem deliverUnspecified_keyCnt : (deliverUnspecified s).keyCnt = s.keyCnt := rfl
@[simp] theorem deliverUnspecified_result : (deliverUnspecified s).result = s.result := rfl
@[simp] theorem deliverUnspecified_trace0 : (deliverUnspecified s).trace0 = s.trace0 := rfl
@[simp] theorem deliverUnspecified_trace1 : (deliverUnspecified s).trace1 = s.trace1 := rfl
@[simp] theorem deliverUnspecified_trace2 : (deliverUnspecified s).trace2 = s.trace2 := rfl
@[simp] theorem deliverUnspecified_trace3 : (deliverUnspecified s).trace3 = s.trace3 := rfl
@[simp] theorem deliverUnspecified_ovf : (deliverUnspecified s).ovf = s.ovf := rfl
@[simp] theorem deliverUnspecified_err : (deliverUnspecified s).err = s.err := rfl
@[simp] theorem deliverUnspecified_lenb : (deliverUnspecified s).lenb = s.lenb := rfl
@[simp] theorem deliverUnspecified_lenk : (deliverUnspecified s).lenk = s.lenk := rfl
@[simp] theorem deliverUnspecified_phase : (deliverUnspecified s).phase = s.phase := rfl
@[simp] theorem deliverUnspecified_pend : (deliverUnspecified s).pend = s.pend := rfl
@[simp] theorem deliverUnspecified_rem : (deliverUnspecified s).rem = s.rem := rfl
@[simp] theorem deliverUnspecified_draws : (deliverUnspecified s).draws = s.draws + 1 := rfl
@[simp] theorem deliverUnspecified_owner : (deliverUnspecified s).owner = s.owner := rfl
@[simp] theorem deliverUnspecified_inputs : (deliverUnspecified s).inputs = s.inputs := rfl
@[simp] theorem deliverUnspecified_hostReads : (deliverUnspecified s).hostReads = Config.busyRead s.cfg.base s.draws :: s.hostReads := rfl

end

/-! ## resetCore -/

section
variable (s : State)

@[simp] theorem resetCore_cfg : (resetCore s).cfg = s.cfg := rfl
@[simp] theorem resetCore_block : (resetCore s).block = Mat.zero := rfl
@[simp] theorem resetCore_key : (resetCore s).key = Mat.zero := rfl
@[simp] theorem resetCore_blkCnt : (resetCore s).blkCnt = 0 := rfl
@[simp] theorem resetCore_keyCnt : (resetCore s).keyCnt = 0 := rfl
@[simp] theorem resetCore_result : (resetCore s).result = 0 := rfl
@[simp] theorem resetCore_trace0 : (resetCore s).trace0 = Mat.zero := rfl
@[simp] theorem resetCore_trace1 : (resetCore s).trace1 = Mat.zero := rfl
@[simp] theorem resetCore_trace2 : (resetCore s).trace2 = Mat.zero := rfl
@[simp] theorem resetCore_trace3 : (resetCore s).trace3 = Mat.zero := rfl
@[simp] theorem resetCore_ovf : (resetCore s).ovf = false := rfl
@[simp] theorem resetCore_err : (resetCore s).err = 0 := rfl
@[simp] theorem resetCore_lenb : (resetCore s).lenb = false := rfl
@[simp] theorem resetCore_lenk : (resetCore s).lenk = false := rfl
@[simp] theorem resetCore_phase : (resetCore s).phase = .init := rfl
@[simp] theorem resetCore_pend : (resetCore s).pend = Config.pendValue s.cfg.base s.draws := rfl
@[simp] theorem resetCore_rem : (resetCore s).rem = s.cfg.initCycles := rfl
@[simp] theorem resetCore_draws : (resetCore s).draws = s.draws + 1 := rfl
@[simp] theorem resetCore_owner : (resetCore s).owner = s.owner := rfl
@[simp] theorem resetCore_inputs : (resetCore s).inputs = s.inputs := rfl
@[simp] theorem resetCore_hostReads : (resetCore s).hostReads = s.hostReads := rfl

end

end Sys2Proof.Machine
end

