-- ==== Sys2Proof/Laws/Ops.lean ====
section
/-! SUPPORT. What each shared operation can do, once: how a command ends, what the length checks answer, what the host's
reads and writes do, and what any command at all can change. -/

namespace Sys2Proof.Machine

/-! ## How a command ends -/

/-- `finish` writes the outcome fields, and what it is given decides the rest. -/
theorem finish_ends {s u : State} {e : Nibble} {lb lk : Bool} (hovf : u.ovf = s.ovf) (hcfg : u.cfg = s.cfg)
    (hrem : u.rem = s.rem) (howner : u.owner = s.owner) (hin : u.inputs = s.inputs)
    (hreads : u.hostReads = s.hostReads) : Ends s (finish e lb lk u) e lb lk := by
  simp [Ends, *]

@[simp] theorem finish_data (s : State) (e : Nibble) (lb lk : Bool) : (finish e lb lk s).data = s.data := rfl

@[simp] theorem onBlock_data (f : Mat → Mat) (s : State) :
    (onBlock f s).data = { s.data with block := f s.block } := rfl

@[simp] theorem putStages_data (g : Stages) (s : State) : (putStages g s).data =
    { s.data with trace0 := g.s0, trace1 := g.s1, trace2 := g.s2, trace3 := g.s3, block := g.s3 } := rfl

@[simp] theorem putResult_data (v : Byte) (s : State) : (putResult v s).data = { s.data with result := v } := rfl

@[simp] theorem clearBlock_data (s : State) :
    (clearBlock s).data = { s.data with block := Mat.zero, blkCnt := 0 } := rfl

@[simp] theorem clearKey_data (s : State) : (clearKey s).data = { s.data with key := Mat.zero, keyCnt := 0 } := rfl

@[simp] theorem dropWrite_data (s : State) : (dropWrite s).data = s.data := rfl

@[simp] theorem startCmd_data (v : Word) (s : State) : (startCmd v s).data = s.data := rfl

@[simp] theorem deliver_data (w : Word) (s : State) : (deliver w s).data = s.data := rfl

@[simp] theorem deliverUnspecified_data (s : State) : (deliverUnspecified s).data = s.data := rfl

/-! ## Length checks -/

theorem blockLengthWrong_eq (s : State) : blockLengthWrong s = decide (s.blkCnt ≠ 16) := by
  simp [blockLengthWrong, bne, BEq.beq]

theorem keyLengthWrong_eq (s : State) : keyLengthWrong s = decide (s.keyCnt ≠ 16) := by
  simp [keyLengthWrong, bne, BEq.beq]

/-- The block check with a right count (R231). -/
theorem checkBlock_ok {s : State} (h : s.blkCnt = 16) (f : State → State) :
    checkBlock f s = .next (finish 0 false false (f s)) := by
  simp [checkBlock, blockLengthWrong_eq, h]

/-- The block check with a wrong count (R231, R233). -/
theorem checkBlock_wrong {s : State} (h : s.blkCnt ≠ 16) (f : State → State) :
    checkBlock f s = .next (finish 1 true false s) := by
  simp only [checkBlock, blockLengthWrong_eq, decide_eq_true h, if_true, raiseInvalidLength_eq]

/-- The check of both with right counts (R231). -/
theorem checkBlockAndKey_ok {s : State} (hb : s.blkCnt = 16) (hk : s.keyCnt = 16) (f : State → State) :
    checkBlockAndKey f s = .next (finish 0 false false (f s)) := by
  simp [checkBlockAndKey, blockLengthWrong_eq, keyLengthWrong_eq, hb, hk]

/-- The check of both with a wrong count names every wrong one (R231, R236). -/
theorem checkBlockAndKey_wrong {s : State} (h : s.blkCnt ≠ 16 ∨ s.keyCnt ≠ 16) (f : State → State) :
    checkBlockAndKey f s =
      .next (finish 1 (decide (s.blkCnt ≠ 16)) (decide (s.keyCnt ≠ 16)) s) := by
  have : (blockLengthWrong s || keyLengthWrong s) = true := by
    simpa only [blockLengthWrong_eq, keyLengthWrong_eq, Bool.or_eq_true, decide_eq_true_eq] using h
  rw [checkBlockAndKey, if_pos this, blockLengthWrong_eq, keyLengthWrong_eq, raiseInvalidLength_eq]

/-! ## BUSY, reads and writes -/

theorem busy_eq_false_iff {s : State} : s.busy = false ↔ s.phase = .idle := by
  unfold State.busy
  cases s.phase <;> simp

theorem busy_eq_true_iff {s : State} : s.busy = true ↔ s.phase ≠ .idle := by
  unfold State.busy
  cases s.phase <;> simp

theorem acceptCmd_idle {s : State} (h : s.busy = false) (v : Word) : acceptCmd v s = startCmd v s := by
  simp [acceptCmd, h]

theorem acceptCmd_busy {s : State} (h : s.busy = true) (v : Word) : acceptCmd v s = dropWrite s := by
  simp [acceptCmd, h]

theorem readRegister_idle {s : State} (h : s.busy = false) (w : Word) : readRegister w s = deliver w s := by
  simp [readRegister, h]

theorem readRegister_busy {s : State} (h : s.busy = true) (w : Word) : readRegister w s = deliverUnspecified s := by
  simp [readRegister, h]

/-- A delivered word is what the host gets, and nothing else changes (R60). -/
theorem deliver_returns (w : Word) (s : State) : Returns s (deliver w s) (some w) := by
  simp [Returns, KeepsControl]

/-- A read of a register returns some word and changes nothing of the core (R59, R60). -/
theorem readRegister_returns (w : Word) (s : State) : Returns s (readRegister w s) none := by
  unfold readRegister
  split <;> simp [Returns, KeepsControl]

/-! ## What any command can change -/

/-- The effect of a command before its end: `u` has the data registers the command leaves, and the outcome is
`(e, lb, lk)`. -/
structure CommandEffect (i : Instr) (s u : State) (e : Nibble) (lb lk : Bool) : Prop where
  cfg : u.cfg = s.cfg
  ovf : u.ovf = s.ovf
  rem : u.rem = s.rem
  owner : u.owner = s.owner
  inputs : u.inputs = s.inputs
  hostReads : u.hostReads = s.hostReads
  outcome : (e = 0 ∧ lb = false ∧ lk = false) ∨ (e = 1 ∧ (lb = true ∨ lk = true)) ∨ (e = 2 ∧ lb = false ∧ lk = false)
  block : (u.block = s.block ∧ u.blkCnt = s.blkCnt) ∨
    (writesBlock i = true ∧ u.blkCnt = s.blkCnt ∧ s.blkCnt = 16) ∨
    (writesBlock i = true ∧ u.block = Mat.zero ∧ u.blkCnt = 0)
  key : (u.key = s.key ∧ u.keyCnt = s.keyCnt) ∨ (writesKey i = true ∧ u.key = Mat.zero ∧ u.keyCnt = 0)
  result : u.result = s.result ∨ (writesResult i = true ∧ e = 0)
  trace : (u.trace0 = s.trace0 ∧ u.trace1 = s.trace1 ∧ u.trace2 = s.trace2 ∧ u.trace3 = s.trace3) ∨
    (writesTrace i = true ∧ e = 0)

/-- A command that checks the block and then changes STATE only. -/
theorem checkBlock_effect {i : Instr} (hi : writesBlock i = true) (f : Mat → Mat) (s : State) :
    ∃ u e lb lk, checkBlock (onBlock f) s = .next (finish e lb lk u) ∧ CommandEffect i s u e lb lk := by
  by_cases h : s.blkCnt = 16
  · exact ⟨onBlock f s, 0, false, false, checkBlock_ok h _, by constructor <;> simp_all⟩
  · exact ⟨s, 1, true, false, checkBlock_wrong h _, by constructor <;> simp⟩

/-- A command that checks both counts before its effect. -/
theorem checkBlockAndKey_effect {i : Instr} {f : State → State} {s : State}
    (hok : s.blkCnt = 16 → s.keyCnt = 16 → CommandEffect i s (f s) 0 false false) :
    ∃ u e lb lk, checkBlockAndKey f s = .next (finish e lb lk u) ∧ CommandEffect i s u e lb lk := by
  by_cases h : s.blkCnt = 16 ∧ s.keyCnt = 16
  · exact ⟨f s, 0, false, false, checkBlockAndKey_ok h.1 h.2 _, hok h.1 h.2⟩
  · have h' : s.blkCnt ≠ 16 ∨ s.keyCnt ≠ 16 := by tauto
    exact ⟨s, 1, _, _, checkBlockAndKey_wrong h' _, by constructor <;> simp_all⟩

/-- Every command ends, and `CommandEffect` says what it can have changed (R230, R235). -/
theorem exec_command {i : Instr} (hi : i.isCommand = true) (s : State) :
    ∃ u e lb lk, exec i s = .next (finish e lb lk u) ∧ CommandEffect i s u e lb lk := by
  cases i with
  | nop a b => exact ⟨s, 0, false, false, rfl, by constructor <;> simp⟩
  | gfmul a b => exact ⟨_, 0, false, false, rfl, by constructor <;> simp [writesResult]⟩
  | sbox a b => exact ⟨_, 0, false, false, rfl, by constructor <;> simp [writesResult]⟩
  | isbox a b => exact ⟨_, 0, false, false, rfl, by constructor <;> simp [writesResult]⟩
  | subb a b => exact checkBlock_effect rfl _ s
  | isubb a b => exact checkBlock_effect rfl _ s
  | shr a b => exact checkBlock_effect rfl _ s
  | ishr a b => exact checkBlock_effect rfl _ s
  | mixc a b => exact checkBlock_effect rfl _ s
  | imixc a b => exact checkBlock_effect rfl _ s
  | ark a b =>
    exact checkBlockAndKey_effect fun h _ => by constructor <;> simp [writesBlock, checksBlockAndKey, h]
  | enc a b =>
    exact checkBlockAndKey_effect fun h _ => by constructor <;> simp [writesBlock, writesTrace, checksBlockAndKey, h]
  | dec a b =>
    exact checkBlockAndKey_effect fun h _ => by constructor <;> simp [writesBlock, writesTrace, checksBlockAndKey, h]
  | clrb a b => exact ⟨_, 0, false, false, rfl, by constructor <;> simp [writesBlock]⟩
  | clrk a b => exact ⟨_, 0, false, false, rfl, by constructor <;> simp [writesKey]⟩
  | reservedOp a b => exact ⟨s, 2, false, false, rfl, by constructor <;> simp⟩
  | reservedFields rsv1 b a rsv0 op => exact ⟨s, 2, false, false, rfl, by constructor <;> simp⟩
  | wrBlkData v => cases hi
  | wrKeyData v => cases hi
  | rdStatus => cases hi
  | rdResult => cases hi
  | rdCount => cases hi
  | rdStateW j => cases hi
  | rdTraceW t j => cases hi
  | rdZero off => cases hi
  | wrIgnored off v => cases hi

/-! ## What any window access can change -/

/-- A window access loads a byte into one of the two loaders while IDLE, is dropped while busy, returns a word, or changes
nothing (R54 to R60). -/
theorem exec_window {i : Instr} (hi : i.isCommand = false) {s t : State} (h : exec i s = .next t) :
    (∃ v, i = .wrBlkData v ∧ s.busy = false ∧ t = loadBlock v s) ∨
    (∃ v, i = .wrKeyData v ∧ s.busy = false ∧ t = loadKey v s) ∨
    (((∃ v, i = .wrBlkData v) ∨ ∃ v, i = .wrKeyData v) ∧ s.busy = true ∧ t = dropWrite s) ∨
    ((∀ v, i ≠ .wrBlkData v ∧ i ≠ .wrKeyData v) ∧ (Returns s t none ∨ t = s)) := by
  have hdeliver : ∀ w, Returns s (deliver w s) none := fun w => by simp [Returns, KeepsControl]
  cases i with
  | wrBlkData v =>
    cases hb : s.busy <;> simp only [exec, execWrBlkData, hb, Host.Outcome.next.injEq] at h <;> simp_all
  | wrKeyData v =>
    cases hb : s.busy <;> simp only [exec, execWrKeyData, hb, Host.Outcome.next.injEq] at h <;> simp_all
  | rdStatus =>
    simp only [exec, execRdStatus] at h
    split at h
    · cases h
    · cases h; exact .inr (.inr (.inr ⟨fun _ => ⟨nofun, nofun⟩, .inl (hdeliver _)⟩))
  | rdResult => cases h; exact .inr (.inr (.inr ⟨fun _ => ⟨nofun, nofun⟩, .inl (readRegister_returns _ s)⟩))
  | rdCount => cases h; exact .inr (.inr (.inr ⟨fun _ => ⟨nofun, nofun⟩, .inl (readRegister_returns _ s)⟩))
  | rdStateW j => cases h; exact .inr (.inr (.inr ⟨fun _ => ⟨nofun, nofun⟩, .inl (readRegister_returns _ s)⟩))
  | rdTraceW n j => cases h; exact .inr (.inr (.inr ⟨fun _ => ⟨nofun, nofun⟩, .inl (readRegister_returns _ s)⟩))
  | rdZero off => cases h; exact .inr (.inr (.inr ⟨fun _ => ⟨nofun, nofun⟩, .inl (hdeliver _)⟩))
  | wrIgnored off v => cases h; exact .inr (.inr (.inr ⟨fun _ => ⟨nofun, nofun⟩, .inr rfl⟩))
  | nop a b => cases hi
  | gfmul a b => cases hi
  | sbox a b => cases hi
  | isbox a b => cases hi
  | subb a b => cases hi
  | isubb a b => cases hi
  | shr a b => cases hi
  | ishr a b => cases hi
  | mixc a b => cases hi
  | imixc a b => cases hi
  | ark a b => cases hi
  | enc a b => cases hi
  | dec a b => cases hi
  | clrb a b => cases hi
  | clrk a b => cases hi
  | reservedOp a b => cases hi
  | reservedFields rsv1 b a rsv0 op => cases hi

/-- Every window access answers a next state while ERR is a code the hardware produces (R30). -/
theorem exec_window_completes {i : Instr} (hi : i.isCommand = false) {s : State} (hs : s.err.toNat ≤ 2) :
    ∃ t, exec i s = .next t := by
  have he : errReserved s = false := by
    simp only [errReserved, decide_eq_false_iff_not]
    omega
  cases i with
  | rdStatus => exact ⟨_, by simp only [exec, execRdStatus, he]; rfl⟩
  | wrBlkData v => exact ⟨_, rfl⟩
  | wrKeyData v => exact ⟨_, rfl⟩
  | rdResult => exact ⟨_, rfl⟩
  | rdCount => exact ⟨_, rfl⟩
  | rdStateW j => exact ⟨_, rfl⟩
  | rdTraceW n j => exact ⟨_, rfl⟩
  | rdZero off => exact ⟨_, rfl⟩
  | wrIgnored off v => exact ⟨_, rfl⟩
  | nop a b => cases hi
  | gfmul a b => cases hi
  | sbox a b => cases hi
  | isbox a b => cases hi
  | subb a b => cases hi
  | isubb a b => cases hi
  | shr a b => cases hi
  | ishr a b => cases hi
  | mixc a b => cases hi
  | imixc a b => cases hi
  | ark a b => cases hi
  | enc a b => cases hi
  | dec a b => cases hi
  | clrb a b => cases hi
  | clrk a b => cases hi
  | reservedOp a b => cases hi
  | reservedFields rsv1 b a rsv0 op => cases hi

end Sys2Proof.Machine
end

