-- ==== Sys2Proof/Laws/PerInstr.lean ====
section
/-! SUPPORT. The per-instruction family `EncodesInWindow`: every well-formed instruction is a 32-bit access at an aligned
offset of the register window, and a command is a write of CMD (R52, R53). One lemma a constructor. -/

/-- The access of a well-formed instruction is one the core defines (R53); a command is written to CMD (R32). -/
def Sys2Proof.Laws.EncodesInWindow.Statement (i : Sys2Proof.Instr) : Prop :=
  i.wf = true →
    ∃ off : Int, 0 ≤ off ∧ off ≤ 0x7C ∧ off % 4 = 0 ∧ (i.isCommand = true → off = 0) ∧
      (Sys2Proof.encode i = .read .word off ∨ ∃ v, Sys2Proof.encode i = .write .word off v)

namespace Sys2Proof.Laws.EncodesInWindow

/-- A command or an illegal word is a write at offset 0. -/
theorem of_commandWord {i : Instr} {w : Word} (h : encode i = .write .word 0 w) : Statement i :=
  fun _ => ⟨0, by decide, by decide, by decide, fun _ => rfl, .inr ⟨w, h⟩⟩

/-- A read. -/
theorem of_read {i : Instr} {off : Int} (h : encode i = .read .word off) (hi : i.isCommand = false)
    (hoff : i.wf = true → 0 ≤ off ∧ off ≤ 0x7C ∧ off % 4 = 0) : Statement i :=
  fun hw => ⟨off, (hoff hw).1, (hoff hw).2.1, (hoff hw).2.2, by simp [hi], .inl h⟩

/-- A write that is no command. -/
theorem of_write {i : Instr} {off : Int} {v : Word} (h : encode i = .write .word off v) (hi : i.isCommand = false)
    (hoff : i.wf = true → 0 ≤ off ∧ off ≤ 0x7C ∧ off % 4 = 0) : Statement i :=
  fun hw => ⟨off, (hoff hw).1, (hoff hw).2.1, (hoff hw).2.2, by simp [hi], .inr ⟨v, h⟩⟩

/-- Every offset of the two catch-all rows is aligned and inside the window. -/
theorem catchAll_offsets {off : Nat} (h : off ∈ zeroReadOffsets ∨ off ∈ ignoredWriteOffsets) :
    0 ≤ (off : Int) ∧ (off : Int) ≤ 0x7C ∧ (off : Int) % 4 = 0 := by
  have hall : ∀ n ∈ zeroReadOffsets ++ ignoredWriteOffsets, n ≤ 0x7C ∧ n % 4 = 0 := by decide
  obtain ⟨h1, h2⟩ := hall off (List.mem_append.2 h)
  omega

theorem nop (a b : Byte) : Statement (.nop a b) := of_commandWord rfl
theorem gfmul (a b : Byte) : Statement (.gfmul a b) := of_commandWord rfl
theorem sbox (a b : Byte) : Statement (.sbox a b) := of_commandWord rfl
theorem isbox (a b : Byte) : Statement (.isbox a b) := of_commandWord rfl
theorem subb (a b : Byte) : Statement (.subb a b) := of_commandWord rfl
theorem isubb (a b : Byte) : Statement (.isubb a b) := of_commandWord rfl
theorem shr (a b : Byte) : Statement (.shr a b) := of_commandWord rfl
theorem ishr (a b : Byte) : Statement (.ishr a b) := of_commandWord rfl
theorem mixc (a b : Byte) : Statement (.mixc a b) := of_commandWord rfl
theorem imixc (a b : Byte) : Statement (.imixc a b) := of_commandWord rfl
theorem ark (a b : Byte) : Statement (.ark a b) := of_commandWord rfl
theorem enc (a b : Byte) : Statement (.enc a b) := of_commandWord rfl
theorem dec (a b : Byte) : Statement (.dec a b) := of_commandWord rfl
theorem clrb (a b : Byte) : Statement (.clrb a b) := of_commandWord rfl
theorem clrk (a b : Byte) : Statement (.clrk a b) := of_commandWord rfl
theorem reservedOp (a b : Byte) : Statement (.reservedOp a b) := of_commandWord rfl
theorem reservedFields (rsv1 b a : Byte) (rsv0 op : Nibble) : Statement (.reservedFields rsv1 b a rsv0 op) :=
  of_commandWord rfl
theorem wrBlkData (v : Word) : Statement (.wrBlkData v) := of_write rfl rfl fun _ => by decide
theorem wrKeyData (v : Word) : Statement (.wrKeyData v) := of_write rfl rfl fun _ => by decide
theorem rdStatus : Statement .rdStatus := of_read rfl rfl fun _ => by decide
theorem rdResult : Statement .rdResult := of_read rfl rfl fun _ => by decide
theorem rdCount : Statement .rdCount := of_read rfl rfl fun _ => by decide
theorem rdStateW (j : Fin 4) : Statement (.rdStateW j) := of_read rfl rfl fun _ => by omega
theorem rdTraceW (t j : Fin 4) : Statement (.rdTraceW t j) := of_read rfl rfl fun _ => by omega
theorem rdZero (off : Nat) : Statement (.rdZero off) :=
  of_read rfl rfl fun h => catchAll_offsets (.inl (List.contains_iff_mem.1 h))
theorem wrIgnored (off : Nat) (v : Word) : Statement (.wrIgnored off v) :=
  of_write rfl rfl fun h => catchAll_offsets (.inr (List.contains_iff_mem.1 h))

end Sys2Proof.Laws.EncodesInWindow
end

