-- ==== Sys2Proof/Laws/Step.lean ====
section
/-! SUPPORT. What a step that answers a next state can be, once, so that no proof unfolds `step`; runs of several steps. -/

namespace Sys2Proof.Machine

/-- The state with its oldest input taken. -/
def taken (s : State) : State := { s with inputs := s.inputs.tail }

/-- The state with its oldest input taken and its host known. -/
def takenBy (agent : Nat) (s : State) : State := { s with inputs := s.inputs.tail, owner := some agent }

/-- The ways a step from s can answer a next state. -/
inductive StepCase (s : State) : State → Prop
  /-- The pending command has its effect (R35, R84). -/
  | completes {t : State} (hc : Completing s) (h : exec (decodeCmd s.pend) (taken s) = .next t) : StepCase s t
  /-- Reset (R260). -/
  | resets (hr : Resetting s) : StepCase s (resetCore (taken s))
  /-- A host write of CMD (R56, R58). -/
  | command (agent : Nat) (v : Word) (rest : List Input) (hin : s.inputs = .access agent (.write .word 0 v) :: rest)
      (hown : mayAccess s agent = true) : StepCase s (acceptCmd v (takenBy agent s))
  /-- Any other host access (R57, R59). -/
  | window {t : State} (agent : Nat) (a : Access) (rest : List Input) (hin : s.inputs = .access agent a :: rest)
      (hown : mayAccess s agent = true) (i : Instr) (hd : decode a = .ok i) (hi : i.isCommand = false)
      (h : exec i (takenBy agent s) = .next t) : StepCase s t
  /-- IDLE with nothing to do. -/
  | idles (hn : CoreNext s) (hp : s.phase = .idle) : StepCase s (taken s)
  /-- The initialisation period ends (R261). -/
  | ready (hn : CoreNext s) (hp : s.phase = .init) (hr : s.rem = 0) (hb : sboxBijective s.cfg.sbox = true) :
      StepCase s { taken s with phase := .idle }
  /-- A clock cycle passes (R35). -/
  | ticks (hn : CoreNext s) (hp : s.phase ≠ .idle) (n : Nat) (hr : s.rem = n + 1) :
      StepCase s { taken s with rem := n }

/-- A step whose input is a move of the core, or that has none. -/
theorem step_coreNext {s : State} (h : CoreNext s) : step s = coreMove (taken s) := by
  rcases h with h | ⟨rest, h⟩
  · have : taken s = s := by
      cases s
      cases h
      rfl
    rw [step, advance, h, this]
  · simp [step, advance, h, takeInput, taken]

theorem step_access {s : State} {agent : Nat} {a : Access} {rest : List Input}
    (hin : s.inputs = .access agent a :: rest) (hown : mayAccess s agent = true) :
    step s = hostAccess a (takenBy agent s) := by
  have : mayAccess { s with inputs := rest } agent = true := hown
  simp [step, advance, hin, takeInput, this, takenBy]

/-- A command's operands are the registers as they are when its word is written (R36). -/
@[simp] theorem operandsOf_takenBy (v : Word) (agent : Nat) (s : State) :
    operandsOf v (takenBy agent s) = operandsOf v s := rfl

theorem step_reset {s : State} (h : Resetting s) : step s = .next (resetCore (taken s)) := by
  obtain ⟨rest, h⟩ := h
  simp [step, advance, h, takeInput, taken]

theorem mayAccess_iff {s : State} {agent : Nat} :
    mayAccess s agent = true ↔ s.owner = none ∨ s.owner = some agent := by
  unfold mayAccess
  cases s.owner <;> simp

/-- What a host access that answers a next state is. -/
theorem hostAccess_next {a : Access} {s t : State} (h : hostAccess a s = .next t) :
    (∃ v, a = .write .word 0 v ∧ t = acceptCmd v s) ∨
    (∃ i, decode a = .ok i ∧ i.isCommand = false ∧ exec i s = .next t) := by
  unfold hostAccess at h
  split at h
  · cases h
  · rename_i i hd
    split at h
    · rename_i hi
      cases h
      exact .inl ⟨_, (decode_command hd hi).1, rfl⟩
    · exact .inr ⟨i, hd, Bool.eq_false_iff.2 ‹_›, h⟩

/-- Every step that answers a next state is one of the ways of `StepCase`. -/
theorem step_cases {s t : State} (h : step s = .next t) : StepCase s t := by
  have core (hn : CoreNext s) : StepCase s t := by
    rw [step_coreNext hn] at h
    unfold coreMove at h
    split at h
    · cases h
      exact .idles hn ‹_›
    · split at h
      · split at h
        · cases h
          exact .ready hn ‹_› ‹_› ‹_›
        · cases h
      · rename_i hp _ n hr
        cases h
        exact .ticks hn (by rw [show s.phase = _ from hp]; decide) n hr
    · split at h
      · exact .completes ⟨‹_›, ‹_›, hn⟩ h
      · rename_i hp _ n hr
        cases h
        exact .ticks hn (by rw [show s.phase = _ from hp]; decide) n hr
  match hin : s.inputs with
  | [] => exact core (.inl hin)
  | .core :: rest => exact core (.inr ⟨rest, hin⟩)
  | .reset :: rest =>
    rw [step_reset ⟨rest, hin⟩] at h
    cases h
    exact .resets ⟨rest, hin⟩
  | .access agent a :: rest =>
    by_cases hown : mayAccess s agent = true
    · rw [step_access hin hown] at h
      rcases hostAccess_next h with ⟨v, rfl, rfl⟩ | ⟨i, hd, hi, he⟩
      · exact .command agent v rest hin hown
      · exact .window agent a rest hin hown i hd hi he
    · have : ¬ mayAccess { s with inputs := rest } agent = true := hown
      simp [step, advance, hin, takeInput, this] at h

/-! ## Runs -/

@[simp] theorem core_step (s : State) : Sys2Proof.core.step s = step s := rfl

/-- `runs` is the host's run of the core. -/
theorem runs_eq_run (n : Nat) (s : State) : runs n s = Host.Core.run Sys2Proof.core n s := by
  induction n generalizing s with
  | zero => rfl
  | succ n ih =>
    simp only [runs, Host.Core.run, core_step]
    cases step s with
    | next u => exact ih u
    | fault r => rfl
    | refused r => rfl

@[simp] theorem runs_zero (s : State) : runs 0 s = .next s := rfl

/-- A run begins with a step. -/
theorem runs_succ (n : Nat) (s : State) :
    runs (n + 1) s =
      match step s with
      | .next u => runs n u
      | .fault r => .fault r
      | .refused r => .refused r := rfl

/-- A run whose first step answers `u` goes on from `u`. -/
theorem runs_succ_next {s u : State} (h : step s = .next u) (n : Nat) : runs (n + 1) s = runs n u := by
  rw [runs_succ, h]

/-- A run of one step is the step. -/
@[simp] theorem runs_one (s : State) : runs 1 s = step s := by
  rw [runs_succ]
  cases step s <;> rfl

/-- A run of n + 1 steps that answers a next state has a first step that does. -/
theorem runs_succ_inv {s t : State} {n : Nat} (h : runs (n + 1) s = .next t) :
    ∃ u, step s = .next u ∧ runs n u = .next t := by
  rw [runs_succ] at h
  split at h
  · exact ⟨_, ‹_›, h⟩
  · cases h
  · cases h

/-- What every step keeps, every run keeps. -/
theorem runs_keeps {P : State → Prop} (hstep : ∀ s t, P s → step s = .next t → P t) {n : Nat} {s t : State}
    (hs : P s) (h : runs n s = .next t) : P t := by
  induction n generalizing s with
  | zero => cases h; exact hs
  | succ n ih =>
    obtain ⟨u, hu, h'⟩ := runs_succ_inv h
    exact ih (hstep s u hs hu) h'

/-- With no input, a command with n cycles left has its effect as the last of n + 1 steps (R35). -/
theorem runs_pending {u : State} (hin : u.inputs = []) (hp : u.phase = .run) {n : Nat} (hr : u.rem = n) :
    runs (n + 1) u = exec (decodeCmd u.pend) { u with rem := 0 } := by
  have htaken : ∀ v : State, v.inputs = [] → taken v = v := fun v h => by
    cases v
    cases h
    rfl
  induction n generalizing u with
  | zero =>
    rw [runs_one, step_coreNext (.inl hin), htaken u hin]
    cases u
    cases hp
    cases hr
    rfl
  | succ n ih =>
    have : step u = .next { u with rem := n } := by
      rw [step_coreNext (.inl hin), htaken u hin, coreMove]
      simp only [hp, hr]
    have rest := ih (u := { u with rem := n }) hin hp rfl
    rw [runs_succ_next this, rest]

end Sys2Proof.Machine
end

