-- ==== Sys2Proof/Laws/Tables.lean ====
section
/-! SUPPORT. The two table lookups, once: in a table that is a bijection both find an entry (R120, R122). -/

namespace Sys2Proof.Machine

theorem sboxBijective_iff {T : List Byte} : sboxBijective T = true ↔ T.length = 256 ∧ T.Nodup := by
  simp [sboxBijective]

/-- In a bijection every Byte stands somewhere (R8, R127). -/
theorem mem_of_sboxBijective {T : List Byte} (h : sboxBijective T = true) (v : Byte) : v ∈ T := by
  obtain ⟨hlen, hnodup⟩ := sboxBijective_iff.1 h
  have hinj : Function.Injective fun i : Fin 256 => T[i.val]'(by omega) :=
    fun i j hij => Fin.ext ((List.Nodup.getElem_inj_iff hnodup).1 hij)
  have hcard : Fintype.card (Fin 256) = Fintype.card Byte :=
    Fintype.card_congr (BitVec.equivFin (m := 8)).toEquiv.symm
  obtain ⟨i, hi⟩ := ((Fintype.bijective_iff_injective_and_card _).2 ⟨hinj, hcard⟩).2 v
  exact hi ▸ List.getElem_mem _

/-- Entry x of the table stands at index x (R122). -/
theorem getElem?_sboxAt {T : List Byte} (h : sboxBijective T = true) (x : Byte) :
    T[x.toNat]? = some (sboxAt T x) := by
  have hlen := (sboxBijective_iff.1 h).1
  have : x.toNat < T.length := by
    have := x.isLt
    omega
  simp [sboxAt, this]

/-- The inverse finds an index at which its operand stands (R120). -/
theorem getElem?_invSboxAt {T : List Byte} (h : sboxBijective T = true) (v : Byte) :
    T[(invSboxAt T v).toNat]? = some v := by
  have hlen := (sboxBijective_iff.1 h).1
  unfold invSboxAt
  split
  · rename_i i hi
    obtain ⟨hlt, hat, -⟩ := List.findIdx?_eq_some_iff_getElem.1 hi
    have hidx : (BitVec.ofNat 8 i).toNat = i := by
      rw [BitVec.toNat_ofNat]
      omega
    simp at hat
    rw [hidx]
    simp [hlt, hat]
  · rename_i hnone
    simpa using List.findIdx?_eq_none_iff.1 hnone v (mem_of_sboxBijective h v)

/-! ## Showing that a written-out table is a bijection -/

/-- Marks the values seen so far as bits of a number; false at the first value seen twice. -/
def noneTwice : List Nat → Nat → Bool
  | [], _ => true
  | x :: xs, seen => !seen.testBit x && noneTwice xs (seen ||| 1 <<< x)

/-- A list that `noneTwice` accepts has no value twice, and none of those marked before. -/
theorem nodup_of_noneTwice (l : List Nat) :
    ∀ seen, noneTwice l seen = true → l.Nodup ∧ ∀ x ∈ l, seen.testBit x = false := by
  induction l with
  | nil => intro seen _; simp
  | cons a l ih =>
    intro seen h
    simp only [noneTwice, Bool.and_eq_true, Bool.not_eq_true'] at h
    obtain ⟨h1, h2⟩ := ih _ h.2
    have ha : ∀ x ∈ l, seen.testBit x = false ∧ a ≠ x := by
      intro x hx
      have := h2 x hx
      rw [Nat.testBit_or, Nat.testBit_shiftLeft, Bool.or_eq_false_iff] at this
      refine ⟨this.1, ?_⟩
      rintro rfl
      simp at this
    refine ⟨List.nodup_cons.2 ⟨fun hm => (ha a hm).2 rfl, h1⟩, ?_⟩
    intro x hx
    rcases List.mem_cons.1 hx with rfl | hx
    · exact h.1
    · exact (ha x hx).1

/-- A written-out table of 256 entries, none twice. -/
theorem sboxBijective_of_noneTwice {T : List Byte} (hlen : T.length = 256)
    (h : noneTwice (T.map BitVec.toNat) 0 = true) : sboxBijective T = true :=
  sboxBijective_iff.2 ⟨hlen, List.Nodup.of_map _ (nodup_of_noneTwice _ _ h).1⟩

end Sys2Proof.Machine
end

