-- ==== Sys2Proof/Tests/Slice0.lean ====
section
/-! SUPPORT. Tests. Expected values come from spec/95_test_vectors.md, by the vector's name in each docstring, or from the
rule named there; words are written out from R80. The second part shows, for every statement with hypotheses, that
something meets them. -/

namespace Sys2Proof.Machine

/-- IDLE after an initialisation, with the reference table and one cycle of latency. -/
def ready : State := { State.resetWith referenceConfig 0 none [] [] with phase := .idle, pend := 0, rem := 0 }

/-- `ready` with a block and a key of sixteen bytes. -/
def loaded (blk key : List Byte) : State :=
  { ready with block := makeState blk, key := makeState key, blkCnt := 16, keyCnt := 16 }

/-- The step that completes the command word w. -/
def complete (w : Word) (s : State) : Result := step { s with phase := .run, pend := w, rem := 0 }

/-- The step that performs a host access. -/
def access (a : Access) (s : State) : Result := step { s with inputs := [.access 0 a] }

/-- A part of the next state. -/
def see {α : Type} (f : State → α) : Result → Option α
  | .next t => some (f t)
  | .fault _ => none
  | .refused _ => none

/-- The word the last read returned. -/
def lastRead (s : State) : Option Word := s.hostReads.head?

/-- 00 01 02 .. 0f. -/
def counting : List Byte :=
  [0x00, 0x01, 0x02, 0x03, 0x04, 0x05, 0x06, 0x07, 0x08, 0x09, 0x0A, 0x0B, 0x0C, 0x0D, 0x0E, 0x0F]

/-- 00 11 22 .. ff, the block of the source's scenario (V-SRC-8). -/
def scenario : List Byte :=
  [0x00, 0x11, 0x22, 0x33, 0x44, 0x55, 0x66, 0x77, 0x88, 0x99, 0xAA, 0xBB, 0xCC, 0xDD, 0xEE, 0xFF]

/-! ## Well-formedness: one ill-formed term a check -/

theorem test_wf_refuses_zero_reserved_fields : (Instr.reservedFields 0 0x83 0x57 0 1).wf = false := by decide
theorem test_wf_refuses_read_of_status : (Instr.rdZero 0x04).wf = false := by decide
theorem test_wf_refuses_misaligned_read : (Instr.rdZero 0x19).wf = false := by decide
theorem test_wf_refuses_write_of_loader : (Instr.wrIgnored 0x10 0).wf = false := by decide
theorem test_wf_refuses_write_outside : (Instr.wrIgnored 0x80 0).wf = false := by decide

/-! ## Decoding: words written out from R80 and R81, offsets from R52 -/

theorem test_decode_commands :
    decodeCmd 0b00000000_11111111_00000001_0000_0000 = .nop 0x01 0xFF ∧
    decodeCmd 0b00000000_10000011_01010111_0000_0001 = .gfmul 0x57 0x83 ∧
    decodeCmd 0b00000000_00000000_01010011_0000_0010 = .sbox 0x53 0 ∧
    decodeCmd 0b00000000_00000000_11101101_0000_0011 = .isbox 0xED 0 ∧
    decodeCmd 0b00000000_00000001_00000000_0000_0100 = .subb 0 0x01 ∧
    decodeCmd 0b00000000_10000000_00000000_0000_0101 = .isubb 0 0x80 ∧
    decodeCmd 0b00000000_00000000_10000000_0000_0110 = .shr 0x80 0 ∧
    decodeCmd 0b00000000_00000000_00000000_0000_0111 = .ishr 0 0 := by decide

theorem test_decode_more_commands :
    decodeCmd 0b00000000_00000000_00000000_0000_1000 = .mixc 0 0 ∧
    decodeCmd 0b00000000_00000000_00000000_0000_1001 = .imixc 0 0 ∧
    decodeCmd 0b00000000_00000000_00000000_0000_1010 = .ark 0 0 ∧
    decodeCmd 0b00000000_00000000_00000000_0000_1011 = .enc 0 0 ∧
    decodeCmd 0b00000000_00000000_00000000_0000_1100 = .dec 0 0 ∧
    decodeCmd 0b00000000_00000000_00000000_0000_1101 = .clrb 0 0 ∧
    decodeCmd 0b00000000_00000000_00000000_0000_1110 = .clrk 0 0 := by decide

/-- Both kinds of illegal word; the reserved fields are looked at first (R84). -/
theorem test_decode_illegal :
    decodeCmd 0b00000000_00000010_00000001_0000_1111 = .reservedOp 1 2 ∧
    decodeCmd 0b00000000_00000000_00000000_0001_1011 = .reservedFields 0 0 0 1 0xB ∧
    decodeCmd 0b10000000_00000000_00000000_0000_1111 = .reservedFields 0x80 0 0 0 0xF := by decide

theorem test_decode_window :
    decode (.write .word 0x10 0xFFFFFF42) = .ok (.wrBlkData 0xFFFFFF42) ∧
    decode (.write .word 0x14 0x5A) = .ok (.wrKeyData 0x5A) ∧
    decode (.read .word 0x04) = .ok .rdStatus ∧ decode (.read .word 0x08) = .ok .rdResult ∧
    decode (.read .word 0x0C) = .ok .rdCount ∧ decode (.read .word 0x2C) = .ok (.rdStateW 3) ∧
    decode (.read .word 0x64) = .ok (.rdTraceW 2 1) ∧ decode (.read .word 0x30) = .ok (.rdZero 0x30) ∧
    decode (.write .word 0x7C 7) = .ok (.wrIgnored 0x7C 7) := by decide

theorem test_decode_refuses :
    decode (.read .half 0x04) = .error .accessWidth ∧ decode (.write .byte 0x10 1) = .error .accessWidth ∧
    decode (.read .word 0x80) = .error .outsideWindow ∧ decode (.write .word (-4) 0) = .error .outsideWindow ∧
    decode (.read .word 0x7E) = .error .misaligned := by decide

theorem test_decode_table_words :
    decodeTableWord 32 0x00835701 = some (.gfmul 0x57 0x83) ∧ decodeTableWord 8 0x0F = some (.reservedOp 0 0) ∧
    decodeTableWord 32 0x01000010 = some (.reservedFields 1 0 0 1 0) ∧
    decodeTableWord 8 0x10 = some (.wrBlkData 0) ∧ decodeTableWord 8 0x14 = some (.wrKeyData 0) ∧
    decodeTableWord 8 0x04 = some .rdStatus ∧ decodeTableWord 8 0x20 = some (.rdStateW 0) ∧
    decodeTableWord 8 0x40 = some (.rdTraceW 0 0) ∧ decodeTableWord 8 0 = some (.rdZero 0) := by decide

/-- A table word runs as the first instruction after reset. -/
theorem test_fetch_word_runs :
    see (·.result) (step (State.reset.withFetchWord 32 0x00835701)) = some 0xC1 ∧
    see (·.err) (step (State.reset.withFetchWord 32 0x0000000B)) = some 1 ∧
    see lastRead (step (State.reset.withFetchWord 8 0x04)) = some (some 1) ∧
    see (·.ovf) (step (State.reset.withFetchWord 8 0x10)) = some true := by decide

/-! ## One step each, from the spec's vectors -/

/-- V-ERR-9 (A and B ignored), V-ERR-13 (OVF stays). -/
theorem test_nop :
    see statusWord (complete 0x00FFFF00 { ready with err := 1, lenb := true, ovf := true }) = some 2 := by
  decide

/-- V-GF-5 and V-GF-16. -/
theorem test_gfmul :
    see (·.result) (complete 0x00835701 ready) = some 0xC1 ∧
    see (·.result) (complete 0x00808001 ready) = some 0x9A := by decide

/-- V-SB-13 (B ignored) and V-SB-7. -/
theorem test_sbox :
    see (·.result) (complete 0x00AA5302 ready) = some 0xED ∧
    see (·.result) (complete 0x0000FF02 ready) = some 0x16 := by decide

/-- V-SB-9 and V-SB-10. -/
theorem test_isbox :
    see (·.result) (complete 0x0000ED03 ready) = some 0x53 ∧
    see (·.result) (complete 0x00000003 ready) = some 0x52 := by decide

/-- V-SUB-1. -/
theorem test_subb :
    see (fun t => flatten t.block) (complete 0x4 (loaded counting counting)) =
      some [0x63, 0x7C, 0x77, 0x7B, 0xF2, 0x6B, 0x6F, 0xC5, 0x30, 0x01, 0x67, 0x2B, 0xFE, 0xD7, 0xAB, 0x76] := by
  decide

/-- V-SUB-5. -/
theorem test_subb_length :
    see (fun t => (t.block, statusWord t)) (complete 0x4 { loaded counting counting with blkCnt := 15 }) =
      some (makeState counting, 0x110) := by decide

/-- V-SUB-4 with one byte changed by V-SB-10: INV_SBOX of 0x63 and of 0x00. -/
theorem test_isubb :
    see (fun t => flatten t.block) (complete 0x5 (loaded (0x00 :: List.replicate 15 0x63) [])) =
      some (0x52 :: List.replicate 15 0x00) := by decide

/-- V-SHR-1 and V-ERR-4. -/
theorem test_shr :
    see (fun t => flatten t.block) (complete 0x6 (loaded counting [])) =
      some [0x00, 0x05, 0x0A, 0x0F, 0x04, 0x09, 0x0E, 0x03, 0x08, 0x0D, 0x02, 0x07, 0x0C, 0x01, 0x06, 0x0B] ∧
    see statusWord (complete 0x6 ready) = some 0x110 := by decide

/-- V-SHR-2. -/
theorem test_ishr :
    see (fun t => flatten t.block) (complete 0x7 (loaded counting [])) =
      some [0x00, 0x0D, 0x0A, 0x07, 0x04, 0x01, 0x0E, 0x0B, 0x08, 0x05, 0x02, 0x0F, 0x0C, 0x09, 0x06, 0x03] := by
  decide

/-- V-MIX-1, V-MIX-2, V-MIX-6 and V-MIX-10 as the four columns. -/
theorem test_mixc :
    see (fun t => flatten t.block) (complete 0x8
        (loaded [0xDB, 0x13, 0x53, 0x45, 0xF2, 0x0A, 0x22, 0x5C, 0x2D, 0x26, 0x31, 0x4C, 0x80, 0, 0, 0] [])) =
      some [0x8E, 0x4D, 0xA1, 0xBC, 0x9F, 0xDC, 0x58, 0x9D, 0x4D, 0x7E, 0xBD, 0xF8, 0x1B, 0x80, 0x80, 0x9B] := by
  decide

/-- The same columns through inv_mix_col. -/
theorem test_imixc :
    see (fun t => flatten t.block) (complete 0x9
        (loaded [0xDB, 0x13, 0x53, 0x45, 0xF2, 0x0A, 0x22, 0x5C, 0x2D, 0x26, 0x31, 0x4C, 0x80, 0, 0, 0] [])) =
      some [0x32, 0xA4, 0x1D, 0x55, 0xAE, 0xC3, 0x69, 0x82, 0xA0, 0x50, 0x50, 0xD6, 0x41, 0xEC, 0xDA, 0xF7] := by
  decide

/-- V-ARK-2. -/
theorem test_ark :
    see (fun t => flatten t.block) (complete 0xA (loaded scenario counting)) =
      some [0x00, 0x10, 0x20, 0x30, 0x40, 0x50, 0x60, 0x70, 0x80, 0x90, 0xA0, 0xB0, 0xC0, 0xD0, 0xE0, 0xF0] := by
  decide

/-- V-ARK-7. -/
theorem test_ark_lengths :
    see (fun t => (t.block, statusWord t)) (complete 0xA { loaded scenario counting with blkCnt := 17, keyCnt := 15 }) =
      some (makeState scenario, 0x310) := by decide

/-- V-ENC-2: the first two words of each stage. -/
theorem test_enc :
    see (fun t => (List.range 2).map fun j =>
        [traceWord t 0 (Fin.ofNat 4 j), traceWord t 1 (Fin.ofNat 4 j), traceWord t 2 (Fin.ofNat 4 j),
          stateWord t (Fin.ofNat 4 j)]) (complete 0xB (loaded scenario counting)) =
      some [[0x30201000, 0x04B7CA63, 0x8CE05363, 0x1564725F], [0x70605040, 0x51D05309, 0x04E16009, 0x92BCF557]] := by
  decide

/-- V-ENC-5: the key's length wrong, then both. -/
theorem test_enc_lengths :
    see statusWord (complete 0xB { loaded scenario counting with keyCnt := 17 }) = some 0x210 ∧
    see statusWord (complete 0xB ready) = some 0x310 := by decide

/-- V-DEC-2: the stages' first bytes and the last stage. -/
theorem test_dec :
    see (fun t => (t.trace0.flat 1, t.trace1.flat 1, t.trace2.flat 1, flatten t.block)) (complete 0xC (loaded
        [0x5F, 0x72, 0x64, 0x15, 0x57, 0xF5, 0xBC, 0x92, 0xF7, 0xBE, 0x3B, 0x29, 0x1D, 0xB9, 0xF9, 0x1A] counting)) =
      some (0x53, 0xCA, 0x10, scenario) := by decide +kernel

/-- V-LD-10. -/
theorem test_clrb :
    see (fun t => (countWord t, t.block, t.key)) (complete 0xD (loaded scenario counting)) =
      some (0x1000, .zero, makeState counting) := by decide

/-- R145: as V-LD-10 with the key. -/
theorem test_clrk :
    see (fun t => (countWord t, t.block, t.key)) (complete 0xE (loaded scenario counting)) =
      some (0x10, makeState scenario, .zero) := by decide

/-- V-ERR-6. -/
theorem test_reserved_op :
    see (fun t => (statusWord t, t.data)) (complete 0xF { loaded scenario counting with lenb := true, err := 1 }) =
      some (0x20, (loaded scenario counting).data) := by decide

/-- V-ERR-8 and V-ERR-10. -/
theorem test_reserved_fields :
    see (fun t => (statusWord t, t.result)) (complete 0x01000001 { ready with result := 7 }) = some (0x20, 7) ∧
    see statusWord (complete 0x1B { loaded scenario counting with blkCnt := 15 }) = some 0x20 := by decide

/-- V-LD-9 and V-LD-4. -/
theorem test_wr_blk_data :
    see (fun t => (countWord t, stateWord t 0)) (access (.write .word 0x10 0xFFFFFF42) ready) = some (1, 0x42) ∧
    see (fun t => (countWord t, flatten t.block)) (access (.write .word 0x10 0x5A) { loaded scenario [] with keyCnt := 0 }) =
      some (0x11, scenario) := by decide

/-- V-LD-5: the counter saturates at 31; R58: a write while BUSY = 1 is dropped. -/
theorem test_wr_blk_data_edges :
    see countWord (access (.write .word 0x10 1) { ready with blkCnt := 31 }) = some 31 ∧
    see (fun t => (countWord t, statusWord t)) (access (.write .word 0x10 1) { ready with phase := .run }) =
      some (0, 3) := by decide

/-- R141, V-LD-7: the sixteenth byte of a key. -/
theorem test_wr_key_data :
    see (fun t => (countWord t, flatten t.key)) (access (.write .word 0x14 0x0F)
        { ready with key := makeState (counting.take 15), keyCnt := 15 }) = some (0x1000, counting) := by decide

/-- R29: each field at its place; R30: a reserved code is a fault. -/
theorem test_rd_status :
    see lastRead (access (.read .word 0x04)
        { ready with phase := .run, ovf := true, err := 1, lenb := true, lenk := true }) = some (some 0x313) ∧
    access (.read .word 0x04) { ready with err := 3 } = .fault .reservedErrCode := by
  constructor
  · decide
  · rfl

/-- R154. -/
theorem test_rd_result : see lastRead (access (.read .word 0x08) { ready with result := 0xC1 }) = some (some 0xC1) := by
  decide

/-- V-LD-8. -/
theorem test_rd_count : see lastRead (access (.read .word 0x0C) (loaded scenario counting)) = some (some 0x1010) := by
  decide

/-- V-LD-2. -/
theorem test_rd_state :
    see lastRead (access (.read .word 0x24) (loaded scenario [])) = some (some 0x77665544) := by decide

/-- TRACE1 of V-ENC-2. -/
def substituted : List Byte :=
  [0x63, 0xCA, 0xB7, 0x04, 0x09, 0x53, 0xD0, 0x51, 0xCD, 0x60, 0xE0, 0xE7, 0xBA, 0x70, 0xE1, 0x8C]

/-- V-ENC-2's TRACE1, word 2. -/
theorem test_rd_trace :
    see lastRead (access (.read .word 0x58) { ready with trace1 := makeState substituted }) =
      some (some 0xE7E060CD) := by decide

/-- V-ERR-16. -/
theorem test_rd_zero : see lastRead (access (.read .word 0x18) (loaded scenario counting)) = some (some 0) := by
  decide

/-- V-ERR-15. -/
theorem test_wr_ignored :
    see (fun t => (t.data, statusWord t)) (access (.write .word 0x04 0xFFFFFFFF) (loaded scenario counting)) =
      some ((loaded scenario counting).data, 0) := by decide

/-- R56: a CMD write is latched, not executed. -/
theorem test_cmd_accepted :
    see (fun t => (statusWord t, t.pend, t.rem, t.result)) (access (.write .word 0 0x00835701) ready) =
      some (1, 0x00835701, 1, 0) := by decide

/-- A configuration in which ENC of the scenario's block takes nine cycles, and every other command one. -/
def slowEnc : Config := { referenceConfig with lat := [(operandsOf 0xB (loaded scenario counting), 9)] }

/-- R10: two commands of one word with different operands may take different times. -/
theorem test_latency_by_operands :
    see (·.rem) (access (.write .word 0 0xB) { loaded scenario counting with cfg := slowEnc }) = some 9 ∧
    see (·.rem) (access (.write .word 0 0xB) { loaded counting counting with cfg := slowEnc }) = some 1 := by decide

/-- V-ERR-12: a load after an ENC write with no poll has both outcomes, by what happens first. -/
theorem test_both_orders :
    see (fun t => (t.blkCnt, t.ovf)) (runs 2 { loaded scenario counting with
        inputs := [.access 0 (.write .word 0 0xB), .access 0 (.write .word 0x10 0)] }) = some (16, true) ∧
    see (fun t => (t.blkCnt, t.ovf)) (runs 4 { loaded scenario counting with
        inputs := [.access 0 (.write .word 0 0xB), .core, .core, .access 0 (.write .word 0x10 0)] }) =
      some (17, false) := by decide

/-- The reference table is admitted (R121, R127). -/
theorem test_sbox_aes_bijective : sboxBijective sboxAes = true :=
  sboxBijective_of_noneTwice (by decide +kernel) (by decide +kernel)

/-- V-ERR-14: STATUS is 0x1 during INIT, and OVF is gone. -/
theorem test_reset :
    see (fun t => (statusWord t, t.data)) (step { loaded scenario counting with ovf := true, inputs := [.reset] }) =
      some (1, ready.data) := by decide

/-- V-ERR-14: STATUS is 0x0 afterwards. -/
theorem test_init_ends : see statusWord (step { ready with phase := .init }) = some 0 := by
  have hb : sboxBijective ready.cfg.sbox = true := test_sbox_aes_bijective
  rw [step_coreNext (.inl rfl), coreMove]
  simp only [taken, hb]
  decide

/-- P1's first lines as a host program: `poll`, then `gfmul 0x57, 0x83`, `poll`, `rd RESULT` and `expect`, with the core's
two moves before the second poll. -/
theorem test_host_program :
    (match hostRun [true, true, true, true, false, false, true, true, true, true, true]
        { prog := expandPoll 0 0 ++ [.wr .cmd 0x00835701] ++ expandPoll 0 1 ++ [.rd .result 1, .expect 1 0xC1]
          line := 0, vars := [], core := ready } with
      | .next h => (h.line, h.vars.lookup 1)
      | .fault _ => (0, none)
      | .refused _ => (0, none)) = (9, some 0xC1) := by decide

/-- R53: a word access that begins below a window is refused, though it overlaps it. -/
theorem test_system_refuses_outside : systemIssue 0 (.read .word 0xFFE) { insts := [ready] } = .refused .outsideWindow := rfl

/-! ## Something meets the hypotheses of every statement that has any -/

/-- A host access waiting in front of an unowned instance. -/
def waiting (a : Access) (s : State) : State := { s with inputs := [.access 0 a] }

theorem witness_DecodeOfEncode :
    (Instr.reservedFields 0 0 0 1 0).wf = true ∧ (Instr.reservedFields 0x80 0 0 0 0xF).wf = true ∧
    (Instr.rdZero 0x3C).wf = true ∧ (Instr.wrIgnored 0x7C 5).wf = true ∧ (Instr.gfmul 0xFF 0xFF).wf = true := by decide

theorem witness_EncodeOfDecode :
    decode (.write .word 0 0xFFFFFFFF) = .ok (.reservedFields 0xFF 0xFF 0xFF 0xF 0xF) ∧
    decode (.read .word 0x3C) = .ok (.rdZero 0x3C) := by decide

theorem witness_LegalCommandWords :
    legalCommand (decodeCmd 0x00FFFF0E) = true ∧ 0x00000010#32 &&& 0xFF0000F0#32 ≠ 0 ∧
    0x80000000#32 &&& 0xFF0000F0#32 ≠ 0 ∧
    (0x00FFFF0F#32 &&& 0xFF0000F0#32 = 0 ∧ BitVec.extractLsb' 0 4 0x00FFFF0F#32 = 0xF#4) := by decide

theorem witness_UnusedOperandsAreIgnored :
    0xE#32 ∈ [0x0#32, 0x4, 0x5, 0x6, 0x7, 0x8, 0x9, 0xA, 0xB, 0xC, 0xD, 0xE] ∧ 0x3#32 ∈ [0x2#32, 0x3] := by decide

/-- Each of R84's three grounds on its own. -/
theorem witness_IllegalWordsChangeNothing :
    BitVec.extractLsb' 4 4 0x10#32 ≠ 0#4 ∧ BitVec.extractLsb' 24 8 0x01000001#32 ≠ 0#8 ∧
    BitVec.extractLsb' 0 4 0x0F#32 = 0xF#4 := by decide

theorem witness_OnlyDefinedAccesses :
    ¬ (Width.half = .word ∧ 0 ≤ (0 : Int) ∧ (0 : Int) ≤ 0x7C ∧ (0 : Int) % 4 = 0) ∧
    ¬ (Width.word = .word ∧ 0 ≤ (-4 : Int) ∧ (-4 : Int) ≤ 0x7C ∧ (-4 : Int) % 4 = 0) ∧
    ¬ (Width.word = .word ∧ 0 ≤ (0x80 : Int) ∧ (0x80 : Int) ≤ 0x7C ∧ (0x80 : Int) % 4 = 0) ∧
    ¬ (Width.word = .word ∧ 0 ≤ (0x7D : Int) ∧ (0x7D : Int) ≤ 0x7C ∧ (0x7D : Int) % 4 = 0) ∧
    (Width.word = .word ∧ 0 ≤ (0x7C : Int) ∧ (0x7C : Int) ≤ 0x7C ∧ (0x7C : Int) % 4 = 0) := by decide

/-- A pending command at REM = 0, with no input and with a move of the core as the next one. -/
theorem witness_StepCompletesPendingCommand :
    (∃ s : State, s.phase = .run ∧ s.rem = 0 ∧ s.inputs = []) ∧
    ∃ s : State, s.phase = .run ∧ s.rem = 0 ∧ s.inputs = .core :: [.reset] :=
  ⟨⟨{ ready with phase := .run }, rfl, rfl, rfl⟩, { ready with phase := .run, inputs := [.core, .reset] }, rfl, rfl, rfl⟩

theorem witness_StepRunsHostAccess :
    NextAccess (waiting (.read .word 0x7C) ready) 0 (.read .word 0x7C) [] ∧
    decode (.read .word 0x7C) = .ok (.rdTraceW 3 3) ∧ (Instr.rdTraceW 3 3).isCommand = false ∧
    NextAccess (waiting (.write .word 0 0xB) { ready with owner := some 0 }) 0 (.write .word 0 0xB) [] ∧
    decode (.write .word 0 0xB) = .ok (.enc 0 0) ∧ (Instr.enc 0 0).isCommand = true :=
  ⟨⟨rfl, .inl rfl⟩, by decide, rfl, ⟨rfl, .inr rfl⟩, by decide, rfl⟩

theorem witness_CmdWriteAcceptedOrDropped :
    (∃ s, NextAccess s 0 (.write .word 0x00 0xB) [] ∧ s.busy = false) ∧
    (∃ s, NextAccess s 0 (.write .word 0x00 0xB) [] ∧ s.busy = true) :=
  ⟨⟨waiting (.write .word 0 0xB) ready, ⟨rfl, .inl rfl⟩, rfl⟩,
    waiting (.write .word 0 0xB) { ready with phase := .run, rem := 1 }, ⟨rfl, .inl rfl⟩, rfl⟩

/-- In a command and in the initialisation period. -/
theorem witness_WritesWhileBusyAreDropped :
    (∃ s, NextAccess s 0 (.write .word 0x14 1) [] ∧ s.busy = true ∧ (0x14 : Int) ∈ [0x00, 0x10, 0x14]) ∧
    (∃ s, NextAccess s 0 (.write .word 0x00 1) [] ∧ s.busy = true ∧ (0x00 : Int) ∈ [0x00, 0x10, 0x14]) :=
  ⟨⟨waiting (.write .word 0x14 1) { ready with phase := .run }, ⟨rfl, .inl rfl⟩, rfl, by decide⟩,
    waiting (.write .word 0x00 1) { ready with phase := .init }, ⟨rfl, .inl rfl⟩, rfl, by decide⟩

theorem witness_CommandRunsAfterItsLatency :
    (Instr.enc 0 0).wf = true ∧ (Instr.enc 0 0).commandWord? = some 0xB ∧
    (waiting (encode (.enc 0 0)) ready).phase = .idle ∧
    NextAccess (waiting (encode (.enc 0 0)) ready) 0 (encode (.enc 0 0)) [] :=
  ⟨rfl, by decide, rfl, rfl, .inl rfl⟩

/-- A cycle passes; a window write is dropped at REM = 0. -/
theorem witness_NothingChangesBeforeCompletion :
    (∃ s t : State, s.phase = .run ∧ ¬ Completing s ∧ ¬ Resetting s ∧ step s = .next t ∧ t.rem ≠ s.rem) ∧
    ∃ s t : State, s.phase = .run ∧ s.rem = 0 ∧ ¬ Completing s ∧ ¬ Resetting s ∧ step s = .next t ∧ t.ovf ≠ s.ovf := by
  constructor
  · exact ⟨{ ready with phase := .run, rem := 1 }, _, rfl, fun h => absurd h.2.1 (by decide),
      fun ⟨_, h⟩ => by simp [ready, State.resetWith] at h, rfl, by decide⟩
  · refine ⟨waiting (.write .word 0x10 0) { ready with phase := .run }, _, rfl, rfl, ?_, ?_, rfl, by decide⟩
    · rintro ⟨-, -, h | ⟨_, h⟩⟩ <;> simp [waiting] at h
    · rintro ⟨_, h⟩
      simp [waiting] at h

theorem witness_SecondHostRefused :
    ∃ s : State, s.owner = some 0 ∧ (1 : Nat) ≠ 0 ∧ s.inputs = .access 1 (.read .word 0x04) :: [] :=
  ⟨{ ready with owner := some 0, inputs := [.access 1 (.read .word 0x04)] }, rfl, by decide, rfl⟩

/-- Within the initialisation period, and at its end with an admitted table and with one that is not. -/
theorem witness_InitialisationEnds :
    (∃ s : State, s.phase = .init ∧ s.inputs = [] ∧ s.rem = 0 + 1) ∧
    (∃ s : State, s.phase = .init ∧ s.inputs = [] ∧ s.rem = 0 ∧ s.cfg.sbox.length = 256 ∧ s.cfg.sbox.Nodup) ∧
    ∃ s : State, s.phase = .init ∧ s.inputs = [] ∧ s.rem = 0 ∧ ¬ (s.cfg.sbox.length = 256 ∧ s.cfg.sbox.Nodup) :=
  ⟨⟨{ ready with phase := .init, rem := 1 }, rfl, rfl, rfl⟩,
    ⟨{ ready with phase := .init }, rfl, rfl, rfl, sboxBijective_iff.1 test_sbox_aes_bijective⟩,
    { ready with phase := .init, cfg := { referenceConfig with sbox := [] } }, rfl, rfl, rfl, by simp⟩

theorem witness_MultiplierFormsField : (0x53 : Byte) ≠ 0 ∧ (0xCA : Byte) ≠ 0 := by decide

/-- For the statements about commands on full registers with an admitted table (`TableLookupsWriteResult`,
`SubstitutionOfTheBlock`, `RowRotationOfTheBlock`, `ColumnMixOfTheBlock`, `RoundKeyIntoTheBlock`, `EncryptStages`,
`DecryptStages`, `RoundTrip`, `StageInverses`, `PipelinesAreTheirStages`, `ColumnMapsAreInverse`). -/
theorem witness_full_registers :
    ∃ s : State, sboxBijective s.cfg.sbox = true ∧ s.blkCnt = 16 ∧ s.keyCnt = 16 ∧ s.block = makeState scenario ∧
      s.key = makeState counting :=
  ⟨loaded scenario counting, test_sbox_aes_bijective, rfl, rfl, rfl, rfl⟩

theorem witness_StageInverses :
    ∃ p ∈ [(Instr.subb 0 0, Instr.isubb 1 1), (Instr.ark 0 0, Instr.ark 1 1)], p.1 = .ark 0 0 :=
  ⟨_, .tail _ (.head _), rfl⟩

/-- A short block; a long block; a short key with a full block. -/
theorem witness_WrongLengthsFail :
    (checksBlockOnly (.mixc 0 0) = true ∧ { ready with blkCnt := 15 }.blkCnt ≠ 16) ∧
    (checksBlockAndKey (.enc 0 0) = true ∧ { loaded [] [] with blkCnt := 17 }.blkCnt ≠ 16) ∧
    (checksBlockAndKey (.ark 0 0) = true ∧ { loaded [] [] with keyCnt := 15 }.keyCnt ≠ 16) := by decide

theorem witness_EveryCommandHasOneOutcome :
    ((Instr.reservedOp 0 0).isCommand = true ∧ legalCommand (.reservedOp 0 0) = false) ∧
    ((Instr.ark 0 0).isCommand = true ∧ legalCommand (.ark 0 0) = true ∧ checksBlockAndKey (.ark 0 0) = true ∧
      { loaded [] [] with keyCnt := 17 }.keyCnt ≠ 16) ∧
    ((Instr.nop 0 0).isCommand = true ∧ legalCommand (.nop 0 0) = true ∧ checksBlockOnly (.nop 0 0) = false ∧
      checksBlockAndKey (.nop 0 0) = false) := by decide

/-- Both cases of BUSY, and a place that is loaded and one that is not. -/
theorem witness_BlockLoaderWrite :
    ready.busy = false ∧ { ready with phase := .run }.busy = true ∧ { ready with phase := .init }.busy = true ∧
    (15 : Nat) < 16 ∧ 15 = { ready with blkCnt := 15 }.blkCnt.toNat ∧
    15 ≠ { ready with blkCnt := 31 }.blkCnt.toNat := by decide

theorem witness_KeyLoaderWrite :
    ready.busy = false ∧ { ready with phase := .run }.busy = true ∧ (0 : Nat) < 16 ∧ 0 = ready.keyCnt.toNat ∧
    0 ≠ { ready with keyCnt := 16 }.keyCnt.toNat := by decide

/-- Forty bytes of a block, past sixteen and past the counter's 31, and a key of two bytes, with bits above 7:0. -/
theorem witness_BlockLoadedInOrder :
    (∃ s : State, s.phase = .idle ∧ (s.owner = none ∨ s.owner = some 0) ∧ s.blkCnt = 0 ∧
      (∀ r c : Fin 4, s.block.get r c = 0) ∧
      s.inputs = (List.replicate 40 0xFFFFFF42#32).map (fun v => .access 0 (.write .word 0x10 v))) ∧
    (∃ s : State, s.phase = .idle ∧ (s.owner = none ∨ s.owner = some 0) ∧ s.keyCnt = 0 ∧
      (∀ r c : Fin 4, s.key.get r c = 0) ∧
      s.inputs = [0x01#32, 0xFFFFFF42#32].map (fun v => .access 0 (.write .word 0x14 v))) :=
  ⟨⟨{ ready with inputs := (List.replicate 40 0xFFFFFF42#32).map (fun v => .access 0 (.write .word 0x10 v)) },
      rfl, .inl rfl, rfl, by decide, rfl⟩,
    { ready with inputs := [0x01#32, 0xFFFFFF42#32].map (fun v => .access 0 (.write .word 0x14 v)) },
    rfl, .inl rfl, rfl, by decide, rfl⟩

theorem witness_FlattenMakeState : counting.length = 16 := by decide

theorem witness_ReadStatus :
    { ready with err := 2 }.err.toNat ≤ 2 ∧ 3 ≤ { ready with err := 3 }.err.toNat ∧
    3 ≤ { ready with err := 15 }.err.toNat := by decide

/-- For `ReadResultAndCount` and `ReadStateAndTrace`. -/
theorem witness_reads : ready.busy = false ∧ { ready with phase := .run }.busy = true ∧
    Instr.rdCount ∈ [Instr.rdResult, .rdCount] ∧ Instr.rdTraceW 3 2 ∈ [Instr.rdStateW 2, .rdTraceW 3 2] := by decide

theorem witness_ReservedOffsetsReadZero :
    (0x00 : Nat) ∈ [0x00, 0x10, 0x14, 0x18, 0x1C, 0x30, 0x34, 0x38, 0x3C] ∧
    (0x3C : Nat) ∈ [0x00, 0x10, 0x14, 0x18, 0x1C, 0x30, 0x34, 0x38, 0x3C] := by decide

theorem witness_IgnoredWritesChangeNothing :
    ((0x7C : Nat) % 4 = 0 ∧ 0x7C < 0x80 ∧ 0x7C ∉ [0x00, 0x10, 0x14]) ∧
    ((0x04 : Nat) % 4 = 0 ∧ 0x04 < 0x80 ∧ 0x04 ∉ [0x00, 0x10, 0x14]) := by decide

theorem witness_ReadsAreIdempotent :
    ready.busy = false ∧ ∃ t, hostAccess (.read .word 0x08) ready = .next t := ⟨rfl, _, rfl⟩

theorem witness_HostCannotReadKey :
    (∃ t, hostAccess (.read .word 0x2C) (loaded scenario counting) = .next t) ∧
    (∃ t, hostAccess (.write .word 0 0xA) (loaded scenario counting) = .next t ∧ t.phase = .run) ∧
    hostAccess (.read .word 0x04) { ready with err := 3 } = .fault .reservedErrCode ∧
    hostAccess (.read .byte 0x2C) (loaded scenario counting) = .refused .accessWidth :=
  ⟨⟨_, rfl⟩, ⟨_, rfl, rfl⟩, rfl, rfl⟩

theorem witness_ResetValues : ∃ s : State, Resetting s ∧ s.phase = .run ∧ s.ovf = true :=
  ⟨{ loaded scenario counting with phase := .run, ovf := true, inputs := [.reset] }, ⟨[], rfl⟩, rfl, rfl⟩

/-- A state of the invariant with a partly loaded block and a wrong length just found. -/
theorem witness_inv :
    Inv { ready with block := makeState (scenario.take 15), blkCnt := 15, err := 1, lenb := true } where
  err_legal := by decide
  err_length := by decide
  idle_rem := fun _ => rfl
  block_tail := by decide
  key_tail := by decide

theorem witness_ready_inv : Inv ready where
  err_legal := by decide
  err_length := by decide
  idle_rem := fun _ => rfl
  block_tail := by decide
  key_tail := by decide

/-- For `StepKeepsInvariant` and `BusyPeriodsEnd`. -/
theorem witness_StepKeepsInvariant :
    ∃ s t : State, Inv s ∧ sboxBijective s.cfg.sbox = true ∧ step s = .next t ∧ t.phase = .run :=
  ⟨waiting (.write .word 0 0xB) ready, _,
    { err_legal := by decide, err_length := by decide, idle_rem := fun _ => rfl,
      block_tail := by decide, key_tail := by decide },
    test_sbox_aes_bijective, rfl, rfl⟩

/-- An access without a meaning, a second host's access, and the end of INIT with a table that is no bijection. -/
theorem witness_StopsAreNamed :
    (∃ s : State, Inv s ∧ step s = .refused .misaligned) ∧ (∃ s : State, Inv s ∧ step s = .refused .secondHost) ∧
    ∃ s : State, Inv s ∧ step s = .refused .sboxNotBijective :=
  ⟨⟨waiting (.read .word 2) ready,
      { err_legal := by decide, err_length := by decide, idle_rem := fun _ => rfl,
        block_tail := by decide, key_tail := by decide }, rfl⟩,
    ⟨waiting (.read .word 4) { ready with owner := some 1 },
      { err_legal := by decide, err_length := by decide, idle_rem := fun _ => rfl,
        block_tail := by decide, key_tail := by decide }, rfl⟩,
    { ready with phase := .init, cfg := { referenceConfig with sbox := [] } },
      { err_legal := by decide, err_length := by decide, idle_rem := nofun,
        block_tail := by decide, key_tail := by decide }, rfl⟩

/-- Each clause: STATE and KEY by a load and by a command, RESULT by GFMUL, TRACE by ENC. -/
theorem witness_RegisterWriters :
    see (fun t => decide (t.block = ready.block)) (access (.write .word 0x10 1) ready) = some false ∧
    see (fun t => decide (t.key = ready.key)) (access (.write .word 0x14 1) ready) = some false ∧
    see (fun t => decide (t.block = (makeState scenario))) (complete 0xD (loaded scenario counting)) = some false ∧
    see (fun t => decide (t.key = (makeState counting))) (complete 0xE (loaded scenario counting)) = some false ∧
    see (fun t => decide (t.result = ready.result)) (complete 0x00010101 ready) = some false ∧
    see (fun t => decide (t.trace0 = ready.trace0)) (complete 0xB (loaded scenario counting)) = some false := by decide

/-- An outcome that changes, OVF that stays, OVF that is set; IDLE left by a CMD write, RUN by its completion and kept by a
cycle, INIT kept by a cycle (`test_init_ends` has its end). -/
theorem witness_StatusWriters :
    see (·.err) (complete 0xF ready) = some 2 ∧
    see (·.ovf) (complete 0xF { ready with ovf := true }) = some true ∧
    see (·.ovf) (access (.write .word 0x00 0xB) { ready with phase := .run }) = some true ∧
    see (·.phase) (access (.write .word 0x00 0xB) ready) = some .run ∧
    see (·.phase) (access (.read .word 0x00) ready) = some .idle ∧
    see (·.phase) (complete 0xF ready) = some .idle ∧
    see (·.phase) (step { ready with phase := .run, rem := 1 }) = some .run ∧
    see (·.phase) (step { ready with phase := .init, rem := 1 }) = some .init := by decide

/-- For `ProtocolKeptThroughout` and `ParametersConstant`. -/
theorem witness_ProtocolKeptThroughout :
    ∃ s t u : State, .reset ∉ s.inputs ∧ 1 ≤ 2 ∧ SafeRun 2 s t ∧ runs 1 s = .next u ∧ u.phase = .run :=
  ⟨waiting (.write .word 0 0x00835701) ready, _, _, by simp [waiting], by decide, ⟨rfl, rfl⟩, rfl, rfl⟩

/-- Two instances, each with a step to take. -/
theorem witness_InstancesAreIndependent :
    ∃ y y₁ y₂ : System, (0 : Nat) ≠ 1 ∧ y.insts.length = 2 ∧ systemStep 0 y = .next y₁ ∧ systemStep 1 y₁ = .next y₂ :=
  ⟨{ insts := [{ ready with phase := .run }, waiting (.write .word 0x10 1) ready] }, _, _, by decide, rfl, rfl, rfl⟩

/-- Two windows side by side: the highest address of the second, and an address that lies in neither. -/
theorem witness_AccessReachesItsWindow :
    ∃ (y : System) (s : State), systemWf y = true ∧ y.insts[1]? = some s ∧
      inWindow s (accessAddr (.read .word 0x10FC)) = true ∧
      ∀ u ∈ y.insts, inWindow u (accessAddr (.read .word 0xFFE)) = false := by
  have hb : sboxBijective sboxAes = true := test_sbox_aes_bijective
  refine ⟨{ insts := [ready, { ready with cfg := { referenceConfig with base := 0x1080 } }] }, _, ?_, rfl, rfl, ?_⟩
  · simp [systemWf, configWf, ready, State.resetWith, referenceConfig, hb]
  · decide

/-- Each hypothesis: a line that is rejected for its operand, an illegal word, a window access, and one that is accepted. -/
theorem witness_AssemblerWords :
    assemble (.enc 1 0) = none ∧ legalCommand (.reservedFields 1 0 0 0 0) = false ∧ legalCommand .rdStatus = false ∧
    assemble (.gfmul 0x57 0x83) = some 0x00835701 := by decide

end Sys2Proof.Machine
end

namespace Sys2Proof.Machine

/-! ## A host access as a step -/

/-- An access that does not decode is refused (R53). -/
theorem hostAccess_error {a : Access} {e : DecodeError} (hd : decode a = .error e) (s : State) :
    hostAccess a s = .refused (accessRefusal e) := by
  rw [hostAccess, hd]

/-- An access that carries a command is accepted or dropped (R56, R58). -/
theorem hostAccess_command {a : Access} {i : Instr} (hd : decode a = .ok i) (hi : i.isCommand = true) (s : State) :
    hostAccess a s = .next (acceptCmd a.data s) := by
  simp only [hostAccess, hd, hi, if_true]

/-- Any other access has its instruction's effect at once (R57, R59). -/
theorem hostAccess_window {a : Access} {i : Instr} (hd : decode a = .ok i) (hi : i.isCommand = false) (s : State) :
    hostAccess a s = exec i s := by
  simp [hostAccess, hd, hi]

@[simp] theorem takenBy_busy (agent : Nat) (s : State) : (takenBy agent s).busy = s.busy := rfl

/-- The step that takes an access of the one host (R50, R67). -/
theorem step_nextAccess {s : State} {agent : Nat} {a : Access} {rest : List Input} (h : NextAccess s agent a rest) :
    step s = hostAccess a (takenBy agent s) := by
  obtain ⟨hin, hown⟩ := h
  exact step_access hin (mayAccess_iff.2 hown)

/-- Once that access is taken, the inputs behind it are left and its agent is the one host (R64, R67). -/
theorem takenBy_eq {s : State} {agent : Nat} {a : Access} {rest : List Input} (h : NextAccess s agent a rest) :
    takenBy agent s = { s with inputs := rest, owner := some agent } := by
  obtain ⟨hin, -⟩ := h
  simp [takenBy, hin]

/-- The step that takes a write of CMD (R56, R58). -/
theorem step_cmdWrite {s : State} {agent : Nat} {v : Word} {rest : List Input}
    (h : NextAccess s agent (.write .word 0x00 v) rest) : step s = .next (acceptCmd v (takenBy agent s)) := by
  rw [step_nextAccess h, hostAccess_command (decode_cmd v) (decodeCmd_isCommand v), Access.data]

/-- Settles O10: the step is `acceptCmd`, which latches the word while BUSY = 0 and drops it while BUSY = 1. -/
theorem cmdWriteAcceptedOrDropped : Obligations.CmdWriteAcceptedOrDropped := by
  intro s agent v rest h
  have hstep := step_cmdWrite h
  have hrest : (takenBy agent s).inputs = rest := by rw [takenBy_eq h]
  cases hb : s.busy with
  | false =>
    rw [acceptCmd_idle (by simpa using hb)] at hstep
    exact ⟨_, hstep, rfl, rfl, rfl, rfl, rfl, hrest, rfl, fun _ => ⟨rfl, rfl, rfl, rfl, rfl⟩, nofun⟩
  | true =>
    rw [acceptCmd_busy (by simpa using hb)] at hstep
    exact ⟨_, hstep, rfl, rfl, rfl, rfl, rfl, hrest, rfl, nofun, fun _ => ⟨rfl, rfl, rfl, rfl⟩⟩

/-! ## A command from its write to its effect -/

/-- A command is encoded as a write of its word to CMD (R32, R80). -/
theorem encode_of_commandWord {i : Instr} {w : Word} (hw : i.commandWord? = some w) :
    encode i = .write .word 0x00 w := by
  cases i <;> cases hw <;> rfl

/-- The word of a well-formed command or illegal word decodes to it (R81, R84). -/
theorem decodeCmd_of_commandWord {i : Instr} {w : Word} (hwf : i.wf = true) (hw : i.commandWord? = some w) :
    decodeCmd w = i := by
  cases i with
  | reservedFields rsv1 b a rsv0 op =>
    cases hw
    exact decodeCmd_reserved (by simpa [Instr.wf] using hwf)
  | _ => cases hw <;> exact decodeCmd_cmdWord _ _ _

/-- Settles O12: one step accepts the word, and `runs_pending` counts the LAT cycles and the completion. -/
theorem commandRunsAfterItsLatency : Obligations.CommandRunsAfterItsLatency := by
  intro i s agent w hwf hw hidle hnext
  rw [encode_of_commandWord hw] at hnext
  have hrest : (takenBy agent s).inputs = [] := by rw [takenBy_eq hnext]
  have hstep : step s = .next (startCmd w (takenBy agent s)) := by
    rw [step_cmdWrite hnext, acceptCmd_idle (by simpa [busy_eq_false_iff] using hidle)]
  calc runs (latency s.cfg (operandsOf w s) + 1 + 1) s
      = runs (latency s.cfg (operandsOf w s) + 1) (startCmd w (takenBy agent s)) := runs_succ_next hstep _
    _ = exec (decodeCmd w) { startCmd w (takenBy agent s) with rem := 0 } :=
        runs_pending (u := startCmd w (takenBy agent s)) hrest rfl rfl
    _ = exec i { s with inputs := [], owner := some agent, phase := .run, pend := w, rem := 0 } := by
        rw [decodeCmd_of_commandWord hwf hw, takenBy_eq hnext]; rfl

/-! ## What a host access can learn of KEY -/

/-- The state with another KEY. -/
def withKey (k : Mat) (s : State) : State := { s with key := k }

@[simp] theorem withKey_busy (k : Mat) (s : State) : (withKey k s).busy = s.busy := rfl

@[simp] theorem withKey_errReserved (k : Mat) (s : State) : errReserved (withKey k s) = errReserved s := rfl

/-- A change of the next state, if there is one; a stop stays the same stop. -/
def onNext (f : State → State) : Result → Result
  | .next t => .next (f t)
  | .fault r => .fault r
  | .refused r => .refused r

@[simp] theorem onNext_next (f : State → State) (t : State) : onNext f (.next t) = .next (f t) := rfl
@[simp] theorem onNext_fault (f : State → State) (r : Fault) : onNext f (.fault r) = .fault r := rfl
@[simp] theorem onNext_refused (f : State → State) (r : Refusal) : onNext f (.refused r) = .refused r := rfl

/-- A read of a register returns the same word whatever KEY holds (R23, R59). -/
theorem readRegister_withKey (w : Word) (k : Mat) (s : State) :
    readRegister w (withKey k s) = withKey k (readRegister w s) := by
  cases hb : s.busy with
  | false => rw [readRegister_idle hb, readRegister_idle (by simpa using hb)]; rfl
  | true => rw [readRegister_busy hb, readRegister_busy (by simpa using hb)]; rfl

/-- A read of STATUS returns the same word, or finds the same fault, whatever KEY holds (R23, R30). -/
theorem execRdStatus_withKey (k : Mat) (s : State) :
    execRdStatus (withKey k s) = onNext (withKey k) (execRdStatus s) := by
  cases h : errReserved s <;> simp only [execRdStatus, withKey_errReserved, h] <;> rfl

/-- A write of BLK_DATA loads the same byte or is dropped, whatever KEY holds (R23, R140). -/
theorem execWrBlkData_withKey (v : Word) (k : Mat) (s : State) :
    execWrBlkData v (withKey k s) = onNext (withKey k) (execWrBlkData v s) := by
  cases hb : s.busy <;> simp only [execWrBlkData, withKey_busy, hb] <;> rfl

/-- A write of KEY_DATA puts what it finds in KEY into KEY alone (R23, R141). -/
theorem execWrKeyData_withKey (v : Word) (k : Mat) (s : State) :
    ∃ k', execWrKeyData v (withKey k s) = onNext (withKey k') (execWrKeyData v s) := by
  cases hb : s.busy with
  | false => exact ⟨loadByte k s.keyCnt (dataByte v), by simp only [execWrKeyData, withKey_busy, hb]; rfl⟩
  | true => exact ⟨k, by simp only [execWrKeyData, withKey_busy, hb]; rfl⟩

/-- No window access carries anything from KEY to the host or to another register (R23). -/
theorem exec_window_withKey {i : Instr} (hi : i.isCommand = false) (k : Mat) (s : State) :
    ∃ k', exec i (withKey k s) = onNext (withKey k') (exec i s) := by
  have hread : ∀ w, Host.Outcome.next (readRegister w (withKey k s)) =
      onNext (withKey k) (.next (readRegister w s)) := fun w => by rw [readRegister_withKey, onNext_next]
  cases i with
  | wrBlkData v => exact ⟨k, execWrBlkData_withKey v k s⟩
  | wrKeyData v => exact execWrKeyData_withKey v k s
  | rdStatus => exact ⟨k, execRdStatus_withKey k s⟩
  | rdResult => exact ⟨k, hread (resultWord s)⟩
  | rdCount => exact ⟨k, hread (countWord s)⟩
  | rdStateW j => exact ⟨k, hread (stateWord s j)⟩
  | rdTraceW t j => exact ⟨k, hread (traceWord s t j)⟩
  | rdZero off => exact ⟨k, rfl⟩
  | wrIgnored off v => exact ⟨k, rfl⟩
  | _ => cases hi

/-- Of a CMD write, only the latency of a command that it starts can depend on KEY (R10, R58). -/
theorem acceptCmd_withKey (v : Word) (k : Mat) (s : State) :
    ∃ n, acceptCmd v (withKey k s) = { withKey k (acceptCmd v s) with rem := n } ∧
      (n = (acceptCmd v s).rem ∨ (s.busy = false ∧ n = latency s.cfg (operandsOf v (withKey k s)))) := by
  cases hb : s.busy with
  | false =>
    rw [acceptCmd_idle hb, acceptCmd_idle (by simpa using hb)]
    exact ⟨_, rfl, .inr ⟨rfl, rfl⟩⟩
  | true =>
    rw [acceptCmd_busy hb, acceptCmd_busy (by simpa using hb)]
    exact ⟨_, rfl, .inl rfl⟩

/-- Settles O48, by what the access decodes to: nothing, a command or a window access. -/
theorem hostCannotReadKey : Obligations.HostCannotReadKey := by
  intro a s k
  change (∀ t, _ → ∃ k' n, hostAccess a (withKey k s) = .next { withKey k' t with rem := n } ∧ _) ∧
    (∀ f, _ → hostAccess a (withKey k s) = .fault f) ∧ ∀ r, _ → hostAccess a (withKey k s) = .refused r
  cases hd : decode a with
  | error e => simp [hostAccess_error hd]
  | ok i =>
    cases hi : i.isCommand with
    | true =>
      simp only [hostAccess_command hd hi]
      refine ⟨fun t ht => ?_, nofun, nofun⟩
      obtain ⟨n, heq, hn⟩ := acceptCmd_withKey a.data k s
      cases ht
      refine ⟨k, n, congrArg _ heq, hn.imp_right ?_⟩
      rintro ⟨hb, hlat⟩
      exact ⟨hb, a.data, (decode_command hd hi).1, hlat⟩
    | false =>
      simp only [hostAccess_window hd hi]
      obtain ⟨k', heq⟩ := exec_window_withKey hi k s
      refine ⟨fun t ht => ⟨k', t.rem, ?_, .inl rfl⟩, fun f hf => ?_, fun r hr => ?_⟩
      · rw [heq, ht]; rfl
      · rw [heq, hf, onNext_fault]
      · rw [heq, hr, onNext_refused]

end Sys2Proof.Machine

namespace Sys2Proof.Machine

/-! ## Which accesses have a meaning -/

/-- A read decodes by what the access check answers (R53). -/
theorem decode_read (width : Width) (off : Int) :
    decode (.read width off) = (checkAccess width off).map decodeRead := by
  rw [decode]
  cases checkAccess width off <;> rfl

/-- A write decodes by what the access check answers (R53). -/
theorem decode_write (width : Width) (off : Int) (v : Word) :
    decode (.write width off v) = (checkAccess width off).map (decodeWrite · v) := by
  rw [decode]
  cases checkAccess width off <;> rfl

/-- The access check passes exactly the 32-bit accesses at a multiple of 4 in the window (R53). -/
theorem exists_checkAccess_ok_iff {width : Width} {off : Int} :
    (∃ n, checkAccess width off = .ok n) ↔ (width = .word ∧ 0 ≤ off ∧ off ≤ 0x7C ∧ off % 4 = 0) := by
  simp [checkAccess_eq]

/-- A pure function after a check leaves open only whether the check passes. -/
theorem exists_map_ok_iff {ε α β : Type} (f : α → β) (x : Except ε α) :
    (∃ b, x.map f = .ok b) ↔ ∃ a, x = .ok a := by
  cases x <;> simp [Except.map]

/-- A read and a write that fail the access check are refused for the same cause (R53). -/
theorem hostAccess_checkAccess_error {width : Width} {off : Int} {e : DecodeError}
    (he : checkAccess width off = .error e) (v : Word) (s : State) :
    hostAccess (.read width off) s = .refused (accessRefusal e) ∧
      hostAccess (.write width off v) s = .refused (accessRefusal e) :=
  ⟨hostAccess_error (by rw [decode_read, he]; rfl) s, hostAccess_error (by rw [decode_write, he]; rfl) s⟩

/-- Settles O7: reads and writes decode by the same access check, and each of its errors is a refusal by name. -/
theorem onlyDefinedAccesses : Obligations.OnlyDefinedAccesses := by
  intro width off v s
  rw [decode_read, decode_write, exists_map_ok_iff, exists_map_ok_iff, exists_checkAccess_ok_iff]
  refine ⟨.rfl, .rfl, fun hundefined => ?_⟩
  rw [← exists_checkAccess_ok_iff] at hundefined
  cases he : checkAccess width off with
  | ok n => exact absurd ⟨n, he⟩ hundefined
  | error e =>
    obtain ⟨hread, hwrite⟩ := hostAccess_checkAccess_error he v s
    rw [hread, hwrite]
    cases e <;> simp [accessRefusal]

/-! ## Writes that are dropped or ignored -/

/-- A write of CMD, BLK_DATA or KEY_DATA while BUSY = 1 only sets OVF (R58). -/
theorem hostAccess_write_busy {off : Int} (hoff : off ∈ [0x00, 0x10, 0x14]) (v : Word) {s : State}
    (hb : s.busy = true) : hostAccess (.write .word off v) s = .next (dropWrite s) := by
  simp only [List.mem_cons, List.not_mem_nil, or_false] at hoff
  obtain rfl | rfl | rfl := hoff
  · rw [hostAccess_command (decode_cmd v) (decodeCmd_isCommand v), acceptCmd_busy hb]
  · rw [hostAccess_window (i := .wrBlkData v) rfl rfl, exec, execWrBlkData, if_pos hb]
  · rw [hostAccess_window (i := .wrKeyData v) rfl rfl, exec, execWrKeyData, if_pos hb]

/-- Settles O11: the step is `dropWrite`, whichever of the three ports is written. -/
theorem writesWhileBusyAreDropped : Obligations.WritesWhileBusyAreDropped := by
  intro s agent off v rest hoff hnext hb
  have hstep : step s = .next (dropWrite { s with inputs := rest, owner := some agent }) := by
    rw [step_nextAccess hnext, hostAccess_write_busy hoff v (by simpa using hb), takenBy_eq hnext]
  exact ⟨_, hstep, rfl, rfl, rfl, rfl, rfl, rfl, rfl, rfl, rfl, rfl, rfl⟩

/-- At every offset but those of CMD, BLK_DATA and KEY_DATA a write is the ignored one (R55). -/
theorem decodeWrite_ignored {off : Nat} (hoff : off ∉ [0x00, 0x10, 0x14]) (v : Word) :
    decodeWrite off v = .wrIgnored off v := by
  simp only [List.mem_cons, List.not_mem_nil, or_false, not_or] at hoff
  obtain ⟨hcmd, hblk, hkey⟩ := hoff
  rw [decodeWrite, if_neg hcmd, if_neg hblk, if_neg hkey]

/-- Settles O45: the offset passes the access check, and `execWrIgnored` answers the state it is given. -/
theorem ignoredWritesChangeNothing : Obligations.IgnoredWritesChangeNothing := by
  intro off v s halign hwindow hoff
  have hcheck : checkAccess .word off = .ok off := (checkAccess_eq _ _ _).2 ⟨rfl, by omega⟩
  have hdecode : decode (.write .word off v) = .ok (.wrIgnored off v) := by
    rw [decode_write, hcheck, Except.map, decodeWrite_ignored hoff]
  exact ⟨hdecode, rfl⟩

end Sys2Proof.Machine

namespace Sys2Proof.Machine

/-! ## Legal and illegal command words -/

/-- `&&&` acts on each of the five fields (R80). -/
theorem packCmd_and (rsv1 b a rsv1' b' a' : Byte) (rsv0 op rsv0' op' : Nibble) :
    packCmd rsv1 b a rsv0 op &&& packCmd rsv1' b' a' rsv0' op' =
      packCmd (rsv1 &&& rsv1') (b &&& b') (a &&& a') (rsv0 &&& rsv0') (op &&& op') := by
  apply BitVec.eq_of_getLsbD_eq
  intro i _
  simp only [BitVec.getLsbD_and, packCmd_getLsbD]
  split_ifs <;> rfl

/-- R85's mask keeps the two reserved fields. -/
theorem packCmd_and_reservedMask (rsv1 b a : Byte) (rsv0 op : Nibble) :
    packCmd rsv1 b a rsv0 op &&& 0xFF0000F0#32 = packCmd rsv1 0 0 rsv0 0 := by
  have hmask : 0xFF0000F0#32 = packCmd (BitVec.allOnes 8) 0 0 (BitVec.allOnes 4) 0 := by decide
  rw [hmask, packCmd_and, BitVec.and_allOnes, BitVec.and_allOnes]
  simp only [BitVec.ofNat_eq_ofNat, BitVec.and_zero]

/-- A word passes R85's mask when both its reserved fields are 0 (R80). -/
theorem and_reservedMask_eq_zero_iff {w : Word} :
    w &&& 0xFF0000F0#32 = 0 ↔ rsv0Field w = 0 ∧ rsv1Field w = 0 := by
  rw [← packCmd_fields w, packCmd_and_reservedMask, rsv0Field_packCmd, rsv1Field_packCmd]
  constructor
  · intro h
    exact ⟨(rsv0Field_packCmd ..).symm.trans (congrArg rsv0Field h),
      (rsv1Field_packCmd ..).symm.trans (congrArg rsv1Field h)⟩
  · rintro ⟨h0, h1⟩
    rw [h0, h1]
    decide

/-- A word with zero reserved fields decodes by its opcode (R84). -/
theorem decodeCmd_eq_decodeOp {w : Word} (h : rsv0Field w = 0 ∧ rsv1Field w = 0) :
    decodeCmd w = decodeOp (opField w) (operandA w) (operandB w) := by
  obtain ⟨h0, h1⟩ := h
  rw [decodeCmd, if_neg (by simp [h0, h1])]

/-- A word with a nonzero reserved field is of the reserved-fields row (R84). -/
theorem decodeCmd_eq_reservedFields {w : Word} (h : ¬ (rsv0Field w = 0 ∧ rsv1Field w = 0)) :
    decodeCmd w = .reservedFields (rsv1Field w) (operandB w) (operandA w) (rsv0Field w) (opField w) := by
  rw [decodeCmd, if_pos (by tauto)]

/-- Every opcode but 0xF is that of a legal command (R81). -/
theorem legalCommand_decodeOp_iff {op : Nibble} {a b : Byte} :
    legalCommand (decodeOp op a b) = true ↔ op ≠ 0xF#4 := by
  rw [ne_eq, ← BitVec.toNat_inj, BitVec.toNat_ofNat]
  unfold decodeOp
  split
  case h_16 =>
    simp only [imp_false] at *
    have hop : op.toNat = 15 := by omega
    simp [legalCommand, hop]
  all_goals simp [legalCommand, *]

/-- Which words select a legal command, by their fields (R85). -/
theorem legalCommand_decodeCmd_iff {w : Word} :
    legalCommand (decodeCmd w) = true ↔ (rsv0Field w = 0 ∧ rsv1Field w = 0) ∧ opField w ≠ 0xF#4 := by
  by_cases h : rsv0Field w = 0 ∧ rsv1Field w = 0
  · rw [decodeCmd_eq_decodeOp h, legalCommand_decodeOp_iff, and_iff_right h]
  · rw [decodeCmd_eq_reservedFields h]
    exact iff_of_false nofun fun ⟨hzero, _⟩ => h hzero

/-- Settles O3: the mask is the two reserved fields, and `decodeCmd` looks at them before the opcode. -/
theorem legalCommandWords : Obligations.LegalCommandWords := by
  intro w
  rw [and_reservedMask_eq_zero_iff, ne_eq (w &&& _), and_reservedMask_eq_zero_iff]
  refine ⟨legalCommand_decodeCmd_iff, fun hreserved => ?_, fun hzero hop => ?_⟩
  · exact ⟨_, _, _, _, _, decodeCmd_eq_reservedFields hreserved⟩
  · have hfield : opField w = 0xF#4 := hop
    rw [decodeCmd_eq_decodeOp hzero, hfield]
    exact ⟨_, _, rfl⟩

/-! ## What an illegal word does -/

/-- Both illegal rows end with ILLEGAL_COMMAND and nothing else (R86, R232). -/
theorem exec_illegal {i : Instr} (hi : i.isCommand = true) (hillegal : legalCommand i = false) (s : State) :
    exec i s = .next (finish 2 false false s) := by
  cases i with
  | reservedOp a b => rfl
  | reservedFields rsv1 b a rsv0 op => rfl
  | wrBlkData | wrKeyData | rdStatus | rdResult | rdCount | rdStateW | rdTraceW | rdZero | wrIgnored => cases hi
  | _ => cases hillegal

/-- Settles O34: each of R84's grounds makes the decoded row an illegal one. -/
theorem illegalWordsChangeNothing : Obligations.IllegalWordsChangeNothing := by
  intro rsv1 b a rsv0 op s
  have hends (i : Instr) (hi : i.isCommand = true) (hillegal : legalCommand i = false) :
      ∃ t, exec i s = .next t ∧ t.data = s.data ∧ Ends s t 2 false false :=
    ⟨_, exec_illegal hi hillegal s, finish_data .., finish_ends rfl rfl rfl rfl rfl rfl⟩
  refine ⟨hends _ rfl rfl, hends _ rfl rfl, fun w hw => hends _ (decodeCmd_isCommand w) ?_⟩
  rw [← Bool.not_eq_true, legalCommand_decodeCmd_iff]
  change rsv0Field w ≠ 0 ∨ rsv1Field w ≠ 0 ∨ opField w = 0xF#4 at hw
  tauto

/-! ## Operands that a command does not use -/

/-- R80's formula and the five fields give the same word. -/
theorem commandFormula_eq_cmdWord (op : Nibble) (a b : Byte) :
    commandFormula (op.setWidth 32) a b = cmdWord op a b := by
  apply BitVec.eq_of_getLsbD_eq
  intro i hi
  simp only [commandFormula, cmdWord, packCmd_getLsbD, BitVec.getLsbD_or, BitVec.getLsbD_shiftLeft,
    BitVec.getLsbD_setWidth, hi, decide_true, Bool.true_and, show ∀ n, i - n < 32 by omega]
  split_ifs <;> grind

/-- No opcode but GFMUL, SBOX and ISBOX uses A (R81, R83). -/
theorem exec_decodeOp_unusedA {op : Nibble} (hop : op.toNat ∉ [1, 2, 3]) (a a' b : Byte) (s : State) :
    exec (decodeOp op a b) s = exec (decodeOp op a' b) s := by
  unfold decodeOp
  split
  case h_2 | h_3 | h_4 => simp_all
  all_goals rfl

/-- No opcode but GFMUL uses B (R81, R83). -/
theorem exec_decodeOp_unusedB {op : Nibble} (hop : op.toNat ≠ 1) (a b b' : Byte) (s : State) :
    exec (decodeOp op a b) s = exec (decodeOp op a b') s := by
  unfold decodeOp
  split
  case h_2 => contradiction
  all_goals rfl

/-- R80's word of an opcode decodes by that opcode, with its two operands (R84). -/
theorem decodeCmd_commandFormula {op : Word} (hop : op.toNat < 16) (a b : Byte) :
    decodeCmd (commandFormula op a b) = decodeOp (op.setWidth 4) a b := by
  have hword : (op.setWidth 4).setWidth 32 = op := by
    apply BitVec.eq_of_toNat_eq
    rw [BitVec.toNat_setWidth, BitVec.toNat_setWidth]
    omega
  rw [← decodeCmd_cmdWord, ← commandFormula_eq_cmdWord, hword]

/-- Settles O5: B is replaced first, and then, where A is unused too, A. -/
theorem unusedOperandsAreIgnored : Obligations.UnusedOperandsAreIgnored := by
  intro a b a' b' s
  refine ⟨fun op hmem => ?_, fun op hmem => ?_⟩
  · have hop : op.toNat < 16 ∧ (op.setWidth 4).toNat ≠ 1 ∧ (op.setWidth 4).toNat ∉ [1, 2, 3] := by
      revert op
      simp
    obtain ⟨hlt, hB, hA⟩ := hop
    rw [decodeCmd_commandFormula hlt, decodeCmd_commandFormula hlt, exec_decodeOp_unusedB hB a b b',
      exec_decodeOp_unusedA hA a a' b']
  · have hop : op.toNat < 16 ∧ (op.setWidth 4).toNat ≠ 1 := by
      revert op
      simp
    obtain ⟨hlt, hB⟩ := hop
    rw [decodeCmd_commandFormula hlt, decodeCmd_commandFormula hlt, exec_decodeOp_unusedB hB a b b']

end Sys2Proof.Machine

namespace Sys2Proof.Machine

/-! ## The shift of the multiplier -/

/-- A Byte let through by a bit: what R100's conditional xors add. -/
def gate (c : Bool) (a : Byte) : Byte := if c then a else 0#8

@[simp] theorem gate_true (a : Byte) : gate true a = a := rfl

@[simp] theorem gate_false (a : Byte) : gate false a = 0#8 := rfl

theorem gate_xor (c : Bool) (a b : Byte) : gate c (a ^^^ b) = gate c a ^^^ gate c b := by
  cases c <;> simp

theorem xor_gate (c d : Bool) (a : Byte) : gate (c ^^ d) a = gate c a ^^^ gate d a := by
  cases c <;> cases d <;> simp

/-- One shift, as R105 states the product by 2. -/
theorem xtime_eq (a : Byte) : xtime a = a <<< 1 ^^^ gate (a.getLsbD 7) reduction := by
  unfold xtime
  cases a.getLsbD 7 <;> simp

@[simp] theorem xtime_zero : xtime 0#8 = 0#8 := rfl

/-- The shift is additive. -/
theorem xtime_xor (a b : Byte) : xtime (a ^^^ b) = xtime a ^^^ xtime b := by
  simp only [xtime_eq, BitVec.shiftLeft_xor_distrib, BitVec.getLsbD_xor, xor_gate]
  ac_rfl

theorem xtime_gate (c : Bool) (a : Byte) : xtime (gate c a) = gate c (xtime a) := by
  cases c <;> simp

/-- The shift undoes a right shift but for the bit shifted out. -/
theorem gate_xor_xtime_ushiftRight (b : Byte) : gate (b.getLsbD 0) 1 ^^^ xtime (b >>> 1) = b := by
  have htop : (b >>> 1).getLsbD 7 = false := by simp
  rw [xtime_eq, htop, gate_false, BitVec.xor_zero]
  ext i hi
  cases i with
  | zero => cases h : b.getLsbD 0 <;> simp_all
  | succ i => cases b.getLsbD 0 <;> simp [Nat.add_comm 1, BitVec.getLsbD_eq_getElem hi]

/-! ## The loop of the multiplier, for any number of iterations -/

/-- One iteration, with the conditional xor as a sum. -/
theorem gfLoop_succ (n : Nat) (p a b : Byte) :
    gfLoop (n + 1) p a b = gfLoop n (p ^^^ gate (b.getLsbD 0) a) (xtime a) (b >>> 1) := by
  rw [gfLoop]
  cases b.getLsbD 0 <;> simp

/-- With nothing to scan, the accumulator stays. -/
theorem gfLoop_scan_zero (n : Nat) (p a : Byte) : gfLoop n p a 0 = p := by
  induction n generalizing a with
  | zero => rfl
  | succ n ih => exact ih (xtime a)

/-- The loop is additive in the accumulator and the scanned operand. -/
theorem gfLoop_xor_scan (n : Nat) (p q a b c : Byte) :
    gfLoop n (p ^^^ q) a (b ^^^ c) = gfLoop n p a b ^^^ gfLoop n q a c := by
  induction n generalizing p q a b c with
  | zero => rfl
  | succ n ih =>
    simp only [gfLoop_succ, ← ih, BitVec.ushiftRight_xor_distrib, BitVec.getLsbD_xor, xor_gate]
    ac_rfl

/-- The loop is additive in the accumulator and the shifted operand. -/
theorem gfLoop_xor_shifted (n : Nat) (p q a b c : Byte) :
    gfLoop n (p ^^^ q) (a ^^^ b) c = gfLoop n p a c ^^^ gfLoop n q b c := by
  induction n generalizing p q a b c with
  | zero => rfl
  | succ n ih =>
    simp only [gfLoop_succ, ← ih, xtime_xor, gate_xor]
    ac_rfl

/-- A shift of the accumulator and the shifted operand passes through the loop. -/
theorem gfLoop_xtime (n : Nat) (p a b : Byte) : gfLoop n (xtime p) (xtime a) b = xtime (gfLoop n p a b) := by
  induction n generalizing p a b with
  | zero => rfl
  | succ n ih => simp only [gfLoop_succ, ← ih, xtime_xor, xtime_gate]

/-- What holds of the accumulator and the shifted operand, and is kept by xor and shift, holds of the result. -/
theorem gfLoop_closed {P : Byte → Prop} (hxor : ∀ a b, P a → P b → P (a ^^^ b)) (hxtime : ∀ a, P a → P (xtime a))
    (n : Nat) {p a : Byte} (b : Byte) (hp : P p) (ha : P a) : P (gfLoop n p a b) := by
  induction n generalizing p a b with
  | zero => exact hp
  | succ n ih =>
    rw [gfLoop]
    refine ih _ ?_ (hxtime a ha)
    split
    · exact hxor p a hp ha
    · exact hp

/-- From 1 as shifted operand, n iterations gather the lowest n bits of the scanned one. -/
theorem gfLoop_one (n : Nat) (b : Byte) (hb : b.toNat < 2 ^ n) : gfLoop n 0 1 b = b := by
  induction n generalizing b with
  | zero => exact BitVec.eq_of_toNat_eq (Nat.lt_one_iff.mp hb).symm
  | succ n ih =>
    have hshift : (b >>> 1).toNat < 2 ^ n := by
      rw [BitVec.toNat_ushiftRight, Nat.shiftRight_eq_div_pow]
      omega
    calc gfLoop (n + 1) 0 1 b
        = gfLoop n (gate (b.getLsbD 0) 1 ^^^ xtime 0) (xtime 1) ((0 : Byte) ^^^ b >>> 1) := by
          simp [gfLoop_succ]
      _ = gate (b.getLsbD 0) 1 ^^^ xtime (gfLoop n 0 1 (b >>> 1)) := by
          rw [gfLoop_xor_scan, gfLoop_scan_zero, gfLoop_xtime]
      _ = b := by rw [ih _ hshift, gate_xor_xtime_ushiftRight]

/-! ## The product is bilinear, and every Byte comes from 1 by xor and shift -/

theorem gfMul_xor_right (x y z : Byte) : gfMul x (y ^^^ z) = gfMul x y ^^^ gfMul x z :=
  gfLoop_xor_scan 8 0 0 x y z

theorem gfMul_xor_left (x y z : Byte) : gfMul (x ^^^ y) z = gfMul x z ^^^ gfMul y z :=
  gfLoop_xor_shifted 8 0 0 x y z

theorem gfMul_xtime_left (x y : Byte) : gfMul (xtime x) y = xtime (gfMul x y) :=
  gfLoop_xtime 8 0 x y

theorem gfMul_zero_right (x : Byte) : gfMul x 0 = 0 := gfLoop_scan_zero 8 0 x

theorem gfMul_one_left (x : Byte) : gfMul 1 x = x := gfLoop_one 8 x x.isLt

/-- Every Byte is gathered from 1 by xor and shift, as a polynomial is from 1 by sums and products by X. -/
theorem byte_induction {P : Byte → Prop} (one : P 1) (add : ∀ a b, P a → P b → P (a ^^^ b))
    (shift : ∀ a, P a → P (xtime a)) (x : Byte) : P x := by
  have hzero : P (1 ^^^ 1) := add 1 1 one one
  rw [BitVec.xor_self] at hzero
  rw [← gfMul_one_left x]
  exact gfLoop_closed add shift 8 x hzero one

theorem gfMul_xtime_right (x y : Byte) : gfMul x (xtime y) = xtime (gfMul x y) := by
  induction x using byte_induction with
  | one => rw [gfMul_one_left, gfMul_one_left]
  | add a b iha ihb => rw [gfMul_xor_left, gfMul_xor_left, iha, ihb, xtime_xor]
  | shift a iha => rw [gfMul_xtime_left, gfMul_xtime_left, iha]

theorem gfMul_one_right (x : Byte) : gfMul x 1 = x := by
  induction x using byte_induction with
  | one => rfl
  | add a b iha ihb => rw [gfMul_xor_left, iha, ihb]
  | shift a iha => rw [gfMul_xtime_left, iha]

/-- R102. -/
theorem gfMul_comm (x y : Byte) : gfMul x y = gfMul y x := by
  induction x using byte_induction with
  | one => rw [gfMul_one_left, gfMul_one_right]
  | add a b iha ihb => rw [gfMul_xor_left, gfMul_xor_right, iha, ihb]
  | shift a iha => rw [gfMul_xtime_left, gfMul_xtime_right, iha]

/-- R103. -/
theorem gfMul_assoc (x y z : Byte) : gfMul (gfMul x y) z = gfMul x (gfMul y z) := by
  induction x using byte_induction with
  | one => rw [gfMul_one_left, gfMul_one_left]
  | add a b iha ihb => simp only [gfMul_xor_left, iha, ihb]
  | shift a iha => simp only [gfMul_xtime_left, iha]

/-- R105: the product by 2 is one shift. -/
theorem gfMul_two (x : Byte) : gfMul x 2 = xtime x := by
  calc gfMul x 2 = gfMul x (xtime 1) := rfl
    _ = xtime x := by rw [gfMul_xtime_right, gfMul_one_right]

/-- R105: the product by 3 is that and one xor. -/
theorem gfMul_three (x : Byte) : gfMul x 3 = gfMul x 2 ^^^ x := by
  calc gfMul x 3 = gfMul x (2 ^^^ 1) := rfl
    _ = gfMul x 2 ^^^ x := by rw [gfMul_xor_right, gfMul_one_right]

/-- Settles O16: the product is bilinear, and `byte_induction` gives commutativity. -/
theorem multiplierLaws : Obligations.MultiplierLaws := by
  intro x y z
  exact ⟨gfMul_one_right x, gfMul_zero_right x, gfMul_comm x y, gfMul_xor_right x y z,
    (gfMul_two x).trans (xtime_eq x), gfMul_three x⟩

/-! ## Inverses, by the eight squarings that give back every Byte -/

/-- The square of a Byte. -/
def gfSquare (x : Byte) : Byte := gfMul x x

theorem gfMul_left_comm (x y z : Byte) : gfMul x (gfMul y z) = gfMul y (gfMul x z) := by
  rw [← gfMul_assoc, gfMul_comm x y, gfMul_assoc]

/-- Squaring is additive: the two mixed products cancel. -/
theorem gfSquare_xor (x y : Byte) : gfSquare (x ^^^ y) = gfSquare x ^^^ gfSquare y := by
  calc gfSquare (x ^^^ y)
      = (gfMul x x ^^^ gfMul y x) ^^^ (gfMul y x ^^^ gfMul y y) := by
        rw [gfSquare, gfMul_xor_right, gfMul_xor_left, gfMul_xor_left, gfMul_comm x y]
    _ = gfSquare x ^^^ gfSquare y := by
        rw [BitVec.xor_assoc, ← BitVec.xor_assoc (gfMul y x), BitVec.xor_self, BitVec.zero_xor]
        rfl

theorem gfSquare_gfMul (x y : Byte) : gfSquare (gfMul x y) = gfMul (gfSquare x) (gfSquare y) := by
  simp only [gfSquare, gfMul_assoc, gfMul_left_comm y x y]

/-- Eight squarings give back every Byte: they keep sums and products, 1 and 2. -/
theorem gfSquare_iterate_eight (x : Byte) : gfSquare^[8] x = x := by
  induction x using byte_induction with
  | one =>
    have hone : gfSquare 1 = 1 := gfMul_one_left 1
    exact Function.iterate_fixed hone 8
  | add a b iha ihb => rw [(Function.Semiconj₂.iterate gfSquare_xor 8).eq, iha, ihb]
  | shift a iha =>
    have htwo : gfSquare^[8] 2 = 2 := by decide +kernel
    rw [← gfMul_two, (Function.Semiconj₂.iterate gfSquare_gfMul 8).eq, iha, htwo]

/-- A Byte squared once or more is a multiple of its square. -/
theorem exists_gfSquare_iterate_succ_eq (n : Nat) (x : Byte) : ∃ m, gfSquare^[n + 1] x = gfMul x (gfMul x m) := by
  induction n with
  | zero => exact ⟨1, by rw [gfMul_one_right]; rfl⟩
  | succ n ih =>
    obtain ⟨m, hm⟩ := ih
    refine ⟨gfMul m (gfMul x (gfMul x m)), ?_⟩
    rw [Function.iterate_succ_apply', hm]
    simp only [gfSquare, gfMul_assoc]

/-- The only Bytes that are their own squares (one evaluation for each of the 256). -/
theorem eq_zero_or_one_of_gfSquare_eq : ∀ x : Byte, gfSquare x = x → x = 0 ∨ x = 1 := by decide

/-- x = x · x · m, so x · m is its own square, and 1 because x is not 0. -/
theorem exists_gfMul_eq_one {x : Byte} (hx : x ≠ 0) : ∃ m, gfMul x m = 1 := by
  obtain ⟨m, hm⟩ := exists_gfSquare_iterate_succ_eq 7 x
  rw [gfSquare_iterate_eight] at hm
  have hsquare : gfSquare (gfMul x m) = gfMul x m := by
    calc gfSquare (gfMul x m) = gfMul (gfMul x (gfMul x m)) m := by
          rw [gfSquare, ← gfMul_assoc, gfMul_comm (gfMul x m) x]
      _ = gfMul x m := by rw [← hm]
  refine ⟨m, (eq_zero_or_one_of_gfSquare_eq _ hsquare).resolve_left fun hzero => hx ?_⟩
  rw [hm, hzero, gfMul_zero_right]

/-- A product with x is undone by a product with an inverse of x. -/
theorem gfMul_inverse_cancel {x m : Byte} (hm : gfMul x m = 1) (y : Byte) : gfMul m (gfMul x y) = y := by
  rw [← gfMul_assoc, gfMul_comm m x, hm, gfMul_one_left]

/-- Settles O17: with an inverse m of x, x · y = 0 gives y = m · x · y = 0, and x · z = 1 gives z = m · x · z = m. -/
theorem multiplierFormsField : Obligations.MultiplierFormsField := by
  refine ⟨fun x y z => ⟨BitVec.xor_assoc x y z, BitVec.xor_comm x y, BitVec.xor_zero, BitVec.xor_self⟩,
    fun x y z => ⟨gfMul_assoc x y z, gfMul_comm x y, gfMul_xor_right x y z, gfMul_one_right x⟩,
    fun x y hx hy hxy => ?_, fun x hx => ?_, rfl, fun y => ?_⟩
  · obtain ⟨m, hm⟩ := exists_gfMul_eq_one hx
    exact hy (by rw [← gfMul_inverse_cancel hm y, hxy, gfMul_zero_right])
  · obtain ⟨m, hm⟩ := exists_gfMul_eq_one hx
    exact ⟨m, hm, fun z hz => by rw [← gfMul_inverse_cancel hm z, hz, gfMul_one_right]⟩
  · rw [gfMul_comm, gfMul_zero_right]
    decide

end Sys2Proof.Machine

namespace Sys2Proof.Machine

/-! ## Functions of a matrix that undo each other -/

/-- In a bijection the entry found at the index of v is v (R120, R126). -/
theorem sboxAt_invSboxAt {T : List Byte} (h : sboxBijective T = true) (v : Byte) : sboxAt T (invSboxAt T v) = v :=
  Option.some.inj ((getElem?_sboxAt h (invSboxAt T v)).symm.trans (getElem?_invSboxAt h v))

/-- In a bijection an entry stands at one index only, so the search for it comes back to that index (R126). -/
theorem invSboxAt_sboxAt {T : List Byte} (h : sboxBijective T = true) (x : Byte) : invSboxAt T (sboxAt T x) = x := by
  have hsame : T[(invSboxAt T (sboxAt T x)).toNat]? = T[x.toNat]? :=
    (getElem?_invSboxAt h (sboxAt T x)).trans (getElem?_sboxAt h x).symm
  obtain ⟨hlen, hnodup⟩ := sboxBijective_iff.1 h
  have hlt : (invSboxAt T (sboxAt T x)).toNat < T.length := hlen ▸ BitVec.isLt _
  exact BitVec.eq_of_toNat_eq ((List.getElem?_inj hlt hnodup).1 hsame)

/-- R126. -/
theorem invSubBytes_subBytes {T : List Byte} (h : sboxBijective T = true) (S : Mat) :
    invSubBytes T (subBytes T S) = S :=
  Mat.ext_get fun r c => by simp [invSubBytes, subBytes, invSboxAt_sboxAt h]

/-- R126, in the other order. -/
theorem subBytes_invSubBytes {T : List Byte} (h : sboxBijective T = true) (S : Mat) :
    subBytes T (invSubBytes T S) = S :=
  Mat.ext_get fun r c => by simp [invSubBytes, subBytes, sboxAt_invSboxAt h]

/-- R182: each row is rotated left and then right by its number. -/
@[simp] theorem invShiftRows_shiftRows (S : Mat) : invShiftRows (shiftRows S) = S :=
  Mat.ext_get fun r c => by simp [invShiftRows, shiftRows]

/-- R182, in the other order. -/
@[simp] theorem shiftRows_invShiftRows (S : Mat) : shiftRows (invShiftRows S) = S :=
  Mat.ext_get fun r c => by simp [invShiftRows, shiftRows]

/-- R171. -/
@[simp] theorem addRoundKey_addRoundKey (S K : Mat) : addRoundKey (addRoundKey S K) K = S :=
  Mat.ext_get fun r c => by simp [addRoundKey]

/-! ## The stage commands on full registers -/

section
variable (a b : Byte) {s : State}

theorem exec_subb_ok (hblk : s.blkCnt = 16) :
    exec (.subb a b) s = .next (finish 0 false false (onBlock (subBytes s.cfg.sbox) s)) :=
  checkBlock_ok hblk _

theorem exec_isubb_ok (hblk : s.blkCnt = 16) :
    exec (.isubb a b) s = .next (finish 0 false false (onBlock (invSubBytes s.cfg.sbox) s)) :=
  checkBlock_ok hblk _

theorem exec_shr_ok (hblk : s.blkCnt = 16) :
    exec (.shr a b) s = .next (finish 0 false false (onBlock shiftRows s)) :=
  checkBlock_ok hblk _

theorem exec_ishr_ok (hblk : s.blkCnt = 16) :
    exec (.ishr a b) s = .next (finish 0 false false (onBlock invShiftRows s)) :=
  checkBlock_ok hblk _

theorem exec_ark_ok (hblk : s.blkCnt = 16) (hkey : s.keyCnt = 16) :
    exec (.ark a b) s = .next (finish 0 false false (onBlock (addRoundKey · s.key) s)) :=
  checkBlockAndKey_ok hblk hkey _

end

/-! ## Stage commands in sequence -/

/-- Two commands that succeed, each changing STATE only, the second undoing the first, leave every data register as it
was (R126, R171, R182). -/
theorem exec_pair_restores {i j : Instr} {f g : Mat → Mat} {s : State}
    (hi : exec i s = .next (finish 0 false false (onBlock f s)))
    (hj : exec j (finish 0 false false (onBlock f s)) =
      .next (finish 0 false false (onBlock g (finish 0 false false (onBlock f s)))))
    (hundo : g (f s.block) = s.block) :
    ∃ t u, exec i s = .next t ∧ exec j t = .next u ∧ u.data = s.data ∧ t.err = 0 ∧ u.err = 0 := by
  refine ⟨_, _, hi, hj, ?_, rfl, rfl⟩
  simp only [finish_data, onBlock_data, finish_block, onBlock_block, hundo]
  rfl

/-- Settles O31: the commands of a pair succeed on full registers, and the function of the second undoes the first's. -/
theorem stageInverses : Obligations.StageInverses := by
  refine ⟨fun T hT => ⟨fun x => ⟨invSboxAt_sboxAt hT x, sboxAt_invSboxAt hT x⟩,
      fun S => ⟨invSubBytes_subBytes hT S, subBytes_invSubBytes hT S⟩⟩,
    fun S => ⟨invShiftRows_shiftRows S, shiftRows_invShiftRows S⟩, addRoundKey_addRoundKey, ?_⟩
  intro a b a' b' s hT hblk p hp hark
  simp only [List.mem_cons, List.not_mem_nil, or_false] at hp
  rcases hp with rfl | rfl | rfl | rfl | rfl
  · exact exec_pair_restores (exec_subb_ok a b hblk) (exec_isubb_ok a' b' hblk) (invSubBytes_subBytes hT _)
  · exact exec_pair_restores (exec_isubb_ok a b hblk) (exec_subb_ok a' b' hblk) (subBytes_invSubBytes hT _)
  · exact exec_pair_restores (exec_shr_ok a b hblk) (exec_ishr_ok a' b' hblk) (invShiftRows_shiftRows _)
  · exact exec_pair_restores (exec_ishr_ok a b hblk) (exec_shr_ok a' b' hblk) (shiftRows_invShiftRows _)
  · have hkey : s.keyCnt = 16 := hark rfl
    exact exec_pair_restores (exec_ark_ok a b hblk hkey) (exec_ark_ok a' b' hblk hkey) (addRoundKey_addRoundKey _ _)

end Sys2Proof.Machine

namespace Sys2Proof.Machine

/-! ## The fields of the words that reads show -/

/-- RESULT stands in bits 7:0 (R154). -/
@[simp] theorem extractLsb'_resultWord (s : State) : (resultWord s).extractLsb' 0 8 = s.result := by
  rw [resultWord, BitVec.extractLsb'_setWidth_of_le (by decide), BitVec.extractLsb'_eq_self]

/-- Bits 31:8 of RESULT's word read 0 (R154). -/
@[simp] theorem extractLsb'_resultWord_reserved (s : State) : (resultWord s).extractLsb' 8 24 = 0#24 := by
  ext i hi
  simp [resultWord]

/-- Of three fields put together, the middle one stands just above the lowest. -/
theorem extractLsb'_append_middle {u v w : Nat} (x : BitVec u) (y : BitVec v) (z : BitVec w) :
    (x ++ y ++ z).extractLsb' w v = y := by
  rw [BitVec.extractLsb'_append_eq_of_le le_rfl, Nat.sub_self, BitVec.extractLsb'_append_eq_right]

section
variable (s : State)

/-- BLK_CNT stands in bits 4:0 (R155). -/
@[simp] theorem extractLsb'_countWord_blkCnt : (countWord s).extractLsb' 0 5 = s.blkCnt :=
  BitVec.extractLsb'_append_eq_right

/-- KEY_CNT stands in bits 12:8 (R155). -/
@[simp] theorem extractLsb'_countWord_keyCnt : (countWord s).extractLsb' 8 5 = s.keyCnt :=
  (BitVec.extractLsb'_append_eq_of_le (by decide)).trans (extractLsb'_append_middle _ _ _)

/-- Bits 7:5 of COUNT read 0 (R155). -/
@[simp] theorem extractLsb'_countWord_reservedLow : (countWord s).extractLsb' 5 3 = 0#3 :=
  extractLsb'_append_middle _ _ _

/-- Bits 31:13 of COUNT read 0 (R155). -/
@[simp] theorem extractLsb'_countWord_reservedHigh : (countWord s).extractLsb' 13 19 = 0#19 :=
  (BitVec.extractLsb'_append_eq_of_le (by decide)).trans
    ((BitVec.extractLsb'_append_eq_of_le (by decide)).trans BitVec.extractLsb'_append_eq_left)

end

/-- COUNT reads 0x00001010 exactly when both loads hold 16 bytes (R155): the counts are fields of the word, and the other
fields are constant. -/
theorem countWord_eq_complete_iff {s : State} : countWord s = 0x00001010 ↔ (s.blkCnt = 16 ∧ s.keyCnt = 16) := by
  constructor
  · intro hword
    rw [← extractLsb'_countWord_blkCnt s, ← extractLsb'_countWord_keyCnt s, hword]
    decide
  · rintro ⟨hblk, hkey⟩
    rw [countWord, hblk, hkey]
    decide

/-- Row k of a column stands in bits 8k+7:8k (R62). -/
@[simp] theorem extractLsb'_packCol (x : Col) (k : Fin 4) : (packCol x).extractLsb' (8 * k.val) 8 = x.get k := by
  rw [packCol]
  fin_cases k
  · exact BitVec.extractLsb'_append_eq_right
  · exact extractLsb'_append_middle (x.r3 ++ x.r2) x.r1 x.r0
  · exact (BitVec.extractLsb'_append_eq_of_le (by decide)).trans (extractLsb'_append_middle x.r3 x.r2 x.r1)
  · exact (BitVec.extractLsb'_append_eq_of_le (by decide)).trans
      ((BitVec.extractLsb'_append_eq_of_le (by decide)).trans BitVec.extractLsb'_append_eq_left)

/-- Flat byte 4j+k is row k of column j (R12, R61). -/
theorem Mat.flat_four_mul_add (S : Mat) (j k : Fin 4) : S.flat (4 * j.val + k.val) = (S.col j).get k := by
  have hrow : flatRow (4 * j.val + k.val) = k := by
    simp only [flatRow, Fin.ext_iff, Fin.ofNat]
    omega
  have hcol : flatCol (4 * j.val + k.val) = j := by
    simp only [flatCol, Fin.ext_iff, Fin.ofNat]
    omega
  rw [Mat.flat, hrow, hcol, Mat.get]

/-- A packed column shows flat bytes 4j to 4j+3, lowest first (R61, R62). -/
theorem extractLsb'_packCol_col (S : Mat) (j k : Fin 4) :
    (packCol (S.col j)).extractLsb' (8 * k.val) 8 = S.flat (4 * j.val + k.val) := by
  rw [extractLsb'_packCol, Mat.flat_four_mul_add]

/-- The model and the statements number the traces alike (R27). -/
theorem traceReg_eq_traceOf (s : State) (n : Fin 4) : traceReg s n = traceOf s n := by
  fin_cases n <;> rfl

/-! ## Reads of the data registers -/

/-- The offsets of STATE_Wj decode to their reads (R52). -/
theorem decode_readStateW (j : Fin 4) : decode (.read .word (0x20 + 4 * (j.val : Int))) = .ok (.rdStateW j) := by
  fin_cases j <;> rfl

/-- The offsets of TRACEt_Wj decode to their reads (R52). -/
theorem decode_readTraceW (n j : Fin 4) :
    decode (.read .word (0x40 + 16 * (n.val : Int) + 4 * (j.val : Int))) = .ok (.rdTraceW n j) := by
  fin_cases n <;> fin_cases j <;> rfl

section
variable {i : Instr} {w : Word} {s : State}

/-- A read of a register while BUSY = 0 returns the word it shows (R60). -/
theorem exec_read_idle (hread : exec i s = .next (readRegister w s)) (hidle : s.busy = false) {P : Word → Prop}
    (hw : P w) : ∃ t v, exec i s = .next t ∧ Returns s t (some v) ∧ P v := by
  rw [readRegister_idle hidle] at hread
  exact ⟨_, w, hread, deliver_returns w s, hw⟩

/-- A read of a register changes nothing of the core, whatever word it returns (R59, R60). -/
theorem exec_read_returns (hread : exec i s = .next (readRegister w s)) :
    ∃ t, exec i s = .next t ∧ Returns s t none :=
  ⟨_, hread, readRegister_returns w s⟩

end

/-- Settles O42: each read is `readRegister` of its word, whose fields are the registers. -/
theorem readResultAndCount : Obligations.ReadResultAndCount := by
  refine ⟨rfl, rfl, fun s => ⟨fun hidle => ⟨?_, ?_⟩, fun _ i hi => ?_⟩⟩
  · exact exec_read_idle (w := resultWord s) rfl hidle
      ⟨extractLsb'_resultWord s, extractLsb'_resultWord_reserved s⟩
  · exact exec_read_idle (w := countWord s) rfl hidle
      ⟨extractLsb'_countWord_blkCnt s, extractLsb'_countWord_reservedLow s, extractLsb'_countWord_keyCnt s,
        extractLsb'_countWord_reservedHigh s, countWord_eq_complete_iff⟩
  · simp only [List.mem_cons, List.not_mem_nil, or_false] at hi
    obtain rfl | rfl := hi
    · exact exec_read_returns (w := resultWord s) rfl
    · exact exec_read_returns (w := countWord s) rfl

/-- Settles O43: each read is `readRegister` of a packed column, and byte k of column j has flat index 4j+k. -/
theorem readStateAndTrace : Obligations.ReadStateAndTrace := by
  intro j n s
  refine ⟨decode_readStateW j, decode_readTraceW n j, fun hidle => ⟨?_, ?_⟩, fun _ i hi => ?_⟩
  · exact exec_read_idle (w := stateWord s j) rfl hidle (extractLsb'_packCol_col s.block j)
  · rw [← traceReg_eq_traceOf]
    exact exec_read_idle (w := traceWord s n j) rfl hidle (extractLsb'_packCol_col (traceReg s n) j)
  · simp only [List.mem_cons, List.not_mem_nil, or_false] at hi
    obtain rfl | rfl := hi
    · exact exec_read_returns (w := stateWord s j) rfl
    · exact exec_read_returns (w := traceWord s n j) rfl

end Sys2Proof.Machine

namespace Sys2Proof.Machine

/-! ## Row rotations by row and column and by flat index -/

/-- Column numbers add modulo 4. -/
theorem col_add_eq_ofNat (c r : Fin 4) : c + r = Fin.ofNat 4 ((c.val + r.val) % 4) := by
  ext
  simp [Fin.val_add]

/-- Column numbers subtract modulo 4. -/
theorem col_sub_eq_ofNat (c r : Fin 4) : c - r = Fin.ofNat 4 ((c.val + 4 - r.val) % 4) := by
  ext
  simp only [Fin.val_sub, Fin.val_ofNat]
  omega

/-- R180: place (r, c) takes the byte of row r at column c + r. -/
theorem shiftRows_get (S : Mat) (r c : Fin 4) :
    (shiftRows S).get r c = S.get r (Fin.ofNat 4 ((c.val + r.val) % 4)) := by
  rw [shiftRows, Mat.get_ofFn, col_add_eq_ofNat]

/-- R181: place (r, c) takes the byte of row r at column c - r. -/
theorem invShiftRows_get (S : Mat) (r c : Fin 4) :
    (invShiftRows S).get r c = S.get r (Fin.ofNat 4 ((c.val + 4 - r.val) % 4)) := by
  rw [invShiftRows, Mat.get_ofFn, col_sub_eq_ofNat]

/-- Flat index r + 4c with r the row of flat index j (R12). -/
theorem Mat.flat_mod_add_four_mul (S : Mat) (j : Nat) (c : Fin 4) :
    S.flat (j % 4 + 4 * c.val) = S.get (flatRow j) c := by
  rw [Nat.add_comm]
  exact S.flat_four_mul_add c (flatRow j)

/-- R183, for SHR; it holds past index 15 too, where a flat index names the place of its value modulo 16. -/
theorem shiftRows_flat (S : Mat) (j : Nat) :
    (shiftRows S).flat j = S.flat (j % 4 + 4 * ((j / 4 + j % 4) % 4)) := by
  have hcol : (flatCol j + flatRow j).val = (j / 4 + j % 4) % 4 := by
    simp only [Fin.val_add, flatCol, flatRow, Fin.val_ofNat]
    omega
  rw [← hcol, Mat.flat_mod_add_four_mul, Mat.flat, shiftRows, Mat.get_ofFn]

/-- R183, for ISHR. -/
theorem invShiftRows_flat (S : Mat) (j : Nat) :
    (invShiftRows S).flat j = S.flat (j % 4 + 4 * ((j / 4 + 4 - j % 4) % 4)) := by
  have hcol : (flatCol j - flatRow j).val = (j / 4 + 4 - j % 4) % 4 := by
    simp only [Fin.val_sub, flatCol, flatRow, Fin.val_ofNat]
    omega
  rw [← hcol, Mat.flat_mod_add_four_mul, Mat.flat, invShiftRows, Mat.get_ofFn]

/-- A command that succeeds and maps STATE by f ends with outcome OK and changes no other data register (R22, R235). -/
theorem exec_onBlock_ends {i : Instr} {f : Mat → Mat} {s : State} {P : Mat → Prop}
    (hexec : exec i s = .next (finish 0 false false (onBlock f s))) (hP : P (f s.block)) :
    ∃ t B, exec i s = .next t ∧ t.data = { s.data with block := B } ∧ Ends s t 0 false false ∧ P B :=
  ⟨_, f s.block, hexec, rfl, finish_ends rfl rfl rfl rfl rfl rfl, hP⟩

/-- Settles O23: on a full block SHR maps STATE by `shiftRows` and ISHR by `invShiftRows`. -/
theorem rowRotationOfTheBlock : Obligations.RowRotationOfTheBlock := fun a b s hblk =>
  ⟨exec_onBlock_ends (exec_shr_ok a b hblk)
      ⟨shiftRows_get s.block, fun j _ => shiftRows_flat s.block j⟩,
    exec_onBlock_ends (exec_ishr_ok a b hblk)
      ⟨invShiftRows_get s.block, fun j _ => invShiftRows_flat s.block j⟩⟩

end Sys2Proof.Machine

namespace Sys2Proof.Machine

/-! ## The column maps as matrix products -/

/-- `mix_col` with its factors 1 as products by 1 (R190). -/
theorem mixCol_eq (x : Col) : mixCol x =
    { r0 := gfMul x.r0 2 ^^^ gfMul x.r1 3 ^^^ gfMul x.r2 1 ^^^ gfMul x.r3 1
      r1 := gfMul x.r0 1 ^^^ gfMul x.r1 2 ^^^ gfMul x.r2 3 ^^^ gfMul x.r3 1
      r2 := gfMul x.r0 1 ^^^ gfMul x.r1 1 ^^^ gfMul x.r2 2 ^^^ gfMul x.r3 3
      r3 := gfMul x.r0 3 ^^^ gfMul x.r1 1 ^^^ gfMul x.r2 1 ^^^ gfMul x.r3 2 } := by
  simp only [mixCol, gfMul_one_right]

/-- R190, R192. -/
theorem mixColumns_get (S : Mat) (r c : Fin 4) : (mixColumns S).get r c = rowTimesColumn mixMatrix S r c := by
  rw [Mat.get, mixColumns, Mat.col_ofCols, mixCol_eq]
  fin_cases r <;> rfl

/-- R191, R193. -/
theorem invMixColumns_get (S : Mat) (r c : Fin 4) :
    (invMixColumns S).get r c = rowTimesColumn invMixMatrix S r c := by
  rw [Mat.get, invMixColumns, Mat.col_ofCols]
  fin_cases r <;> rfl

/-- The identity among the coefficient matrices (R194). -/
def identityMatrix (r c : Fin 4) : Byte := if r = c then 1 else 0

/-- An entry of the identity matrix keeps a Byte or drops it. -/
theorem gfMul_identityMatrix (x : Byte) (r c : Fin 4) : gfMul x (identityMatrix r c) = if r = c then x else 0 := by
  rw [identityMatrix]
  split
  · exact gfMul_one_right x
  · exact gfMul_zero_right x

/-- The product with the identity matrix is the byte at its place. -/
theorem rowTimesColumn_identityMatrix (S : Mat) (r c : Fin 4) : rowTimesColumn identityMatrix S r c = S.get r c := by
  fin_cases r <;> simp [rowTimesColumn, gfMul_identityMatrix]

/-- A product with N and then with M is the product with M N: gf_mul is bilinear, associative and commutative. -/
theorem rowTimesColumn_matrixProduct (M N : Fin 4 → Fin 4 → Byte) (S : Mat) (r c : Fin 4) :
    rowTimesColumn M (Mat.ofFn (rowTimesColumn N S)) r c = rowTimesColumn (matrixProduct M N) S r c := by
  have hterm (x n m : Byte) : gfMul (gfMul x n) m = gfMul x (gfMul m n) := by rw [gfMul_assoc, gfMul_comm n m]
  simp only [rowTimesColumn, matrixProduct, Mat.get_ofFn, gfMul_xor_left, gfMul_xor_right, hterm]
  ac_rfl

/-- R194: M times IM. -/
theorem matrixProduct_mixMatrix_invMixMatrix : matrixProduct mixMatrix invMixMatrix = identityMatrix := by
  decide

/-- R194: IM times M. -/
theorem matrixProduct_invMixMatrix_mixMatrix : matrixProduct invMixMatrix mixMatrix = identityMatrix := by
  decide

/-- Two maps of STATE that are products with M and N undo each other when M N is the identity. -/
theorem leftInverse_of_matrixProduct {M N : Fin 4 → Fin 4 → Byte} {f g : Mat → Mat}
    (hMN : matrixProduct M N = identityMatrix) (hf : ∀ S r c, (f S).get r c = rowTimesColumn M S r c)
    (hg : ∀ S r c, (g S).get r c = rowTimesColumn N S r c) (S : Mat) : f (g S) = S := by
  refine Mat.ext_get fun r c => ?_
  have hgS : g S = Mat.ofFn (rowTimesColumn N S) := Mat.ext_get fun r c => by rw [hg, Mat.get_ofFn]
  rw [hf, hgS, rowTimesColumn_matrixProduct, hMN, rowTimesColumn_identityMatrix]

/-- R194. -/
@[simp] theorem invMixColumns_mixColumns (S : Mat) : invMixColumns (mixColumns S) = S :=
  leftInverse_of_matrixProduct matrixProduct_invMixMatrix_mixMatrix invMixColumns_get mixColumns_get S

/-- R194, in the other order. -/
@[simp] theorem mixColumns_invMixColumns (S : Mat) : mixColumns (invMixColumns S) = S :=
  leftInverse_of_matrixProduct matrixProduct_mixMatrix_invMixMatrix mixColumns_get invMixColumns_get S

/-! ## MIXC and IMIXC on a full block -/

section
variable (a b : Byte) {s : State}

theorem exec_mixc_ok (hblk : s.blkCnt = 16) :
    exec (.mixc a b) s = .next (finish 0 false false (onBlock mixColumns s)) :=
  checkBlock_ok hblk _

theorem exec_imixc_ok (hblk : s.blkCnt = 16) :
    exec (.imixc a b) s = .next (finish 0 false false (onBlock invMixColumns s)) :=
  checkBlock_ok hblk _

end

/-- Settles O25: the matrices multiply to the identity, so the maps undo each other, and the commands with them. -/
theorem columnMapsAreInverse : Obligations.ColumnMapsAreInverse := by
  refine ⟨fun r c => ⟨congrFun₂ matrixProduct_mixMatrix_invMixMatrix r c,
      congrFun₂ matrixProduct_invMixMatrix_mixMatrix r c⟩,
    fun S => ⟨invMixColumns_mixColumns S, mixColumns_invMixColumns S⟩, fun a b a' b' s hblk => ⟨?_, ?_⟩⟩
  · obtain ⟨t, u, ht, hu, hdata, hterr, huerr⟩ :=
      exec_pair_restores (exec_mixc_ok a b hblk) (exec_imixc_ok a' b' hblk) (invMixColumns_mixColumns _)
    exact ⟨t, u, ht, hu, hterr, huerr, hdata⟩
  · obtain ⟨t, u, ht, hu, hdata, hterr, huerr⟩ :=
      exec_pair_restores (exec_imixc_ok a b hblk) (exec_mixc_ok a' b' hblk) (mixColumns_invMixColumns _)
    exact ⟨t, u, ht, hu, hterr, huerr, hdata⟩

end Sys2Proof.Machine

namespace Sys2Proof.Machine

/-! ## The pipelines as functions that undo each other -/

/-- R210: `encrypt` is the last of ENC's four stages. -/
theorem encStages_s3 (T : List Byte) (S K : Mat) :
    (encStages T S K).s3 = mixColumns (shiftRows (subBytes T (addRoundKey S K))) := rfl

/-- R211: `decrypt` is the last of DEC's four stages. -/
theorem decStages_s3 (T : List Byte) (S K : Mat) :
    (decStages T S K).s3 = addRoundKey (invSubBytes T (invShiftRows (invMixColumns S))) K := rfl

/-- R212: each stage of DEC undoes its counterpart of ENC, from the last one back. -/
theorem decStages_encStages {T : List Byte} (h : sboxBijective T = true) (S K : Mat) :
    (decStages T (encStages T S K).s3 K).s3 = S := by
  rw [encStages_s3, decStages_s3, invMixColumns_mixColumns, invShiftRows_shiftRows, invSubBytes_subBytes h,
    addRoundKey_addRoundKey]

/-- R212, in the other order. -/
theorem encStages_decStages {T : List Byte} (h : sboxBijective T = true) (S K : Mat) :
    (encStages T (decStages T S K).s3 K).s3 = S := by
  rw [decStages_s3, encStages_s3, addRoundKey_addRoundKey, subBytes_invSubBytes h, shiftRows_invShiftRows,
    mixColumns_invMixColumns]

/-! ## ENC and DEC on full registers -/

section
variable (a b : Byte) {s : State} (hblk : s.blkCnt = 16) (hkey : s.keyCnt = 16)
include hblk hkey

theorem exec_enc_ok :
    exec (.enc a b) s = .next (finish 0 false false (putStages (encStages s.cfg.sbox s.block s.key) s)) :=
  checkBlockAndKey_ok hblk hkey _

theorem exec_dec_ok :
    exec (.dec a b) s = .next (finish 0 false false (putStages (decStages s.cfg.sbox s.block s.key) s)) :=
  checkBlockAndKey_ok hblk hkey _

end

/-- Settles O30: the pipelines undo each other as functions, and a pipeline leaves the table, KEY and both counts as
they were, so the second command succeeds and applies the inverse function to what the first left in STATE. -/
theorem roundTrip : Obligations.RoundTrip := by
  refine ⟨fun T S K hT => ⟨decStages_encStages hT S K, encStages_decStages hT S K⟩,
    fun a b a' b' s hT hblk hkey => ⟨?_, ?_⟩⟩
  · exact ⟨_, _, exec_enc_ok a b hblk hkey, exec_dec_ok a' b' hblk hkey, decStages_encStages hT s.block s.key, rfl, rfl⟩
  · exact ⟨_, _, exec_dec_ok a b hblk hkey, exec_enc_ok a' b' hblk hkey, encStages_decStages hT s.block s.key, rfl, rfl⟩

end Sys2Proof.Machine

namespace Sys2Proof.Machine

/-! ## No step writes a parameter (R262) -/

@[simp] theorem taken_cfg (s : State) : (taken s).cfg = s.cfg := rfl

@[simp] theorem takenBy_cfg (agent : Nat) (s : State) : (takenBy agent s).cfg = s.cfg := rfl

@[simp] theorem acceptCmd_cfg (v : Word) (s : State) : (acceptCmd v s).cfg = s.cfg := by
  cases hb : s.busy with
  | false => rw [acceptCmd_idle hb, startCmd_cfg]
  | true => rw [acceptCmd_busy hb, dropWrite_cfg]

theorem exec_command_cfg {i : Instr} (hi : i.isCommand = true) {s t : State} (h : exec i s = .next t) :
    t.cfg = s.cfg := by
  obtain ⟨u, e, lb, lk, hexec, heffect⟩ := exec_command hi s
  cases hexec.symm.trans h
  exact heffect.cfg

theorem exec_window_cfg {i : Instr} (hi : i.isCommand = false) {s t : State} (h : exec i s = .next t) :
    t.cfg = s.cfg := by
  rcases exec_window hi h with ⟨v, -, -, rfl⟩ | ⟨v, -, -, rfl⟩ | ⟨-, -, rfl⟩ | ⟨-, hreturns | rfl⟩
  · exact loadBlock_cfg v s
  · exact loadKey_cfg v s
  · exact dropWrite_cfg s
  · obtain ⟨-, ⟨-, -, -, -, -, -, hcfg, -⟩, -⟩ := hreturns
    exact hcfg
  · rfl

theorem step_cfg {s t : State} (h : step s = .next t) : t.cfg = s.cfg := by
  cases step_cases h with
  | completes hc hexec => exact (exec_command_cfg (decodeCmd_isCommand s.pend) hexec).trans (taken_cfg s)
  | resets hr => exact resetCore_cfg (taken s)
  | command agent v rest hin hown => exact acceptCmd_cfg v (takenBy agent s)
  | window agent a rest hin hown i hd hi hexec => exact (exec_window_cfg hi hexec).trans (takenBy_cfg agent s)
  | idles hn hp => exact taken_cfg s
  | ready hn hp hr hb => exact taken_cfg s
  | ticks hn hp n hr => exact taken_cfg s

/-- Settles O56: every step keeps the parameters, so every run does. -/
theorem parametersConstant : Obligations.ParametersConstant := fun _ s _ hrun =>
  runs_keeps (P := fun u => u.cfg = s.cfg) (fun _ _ hcfg hstep => (step_cfg hstep).trans hcfg) rfl hrun

/-! ## Reset (R260) -/

/-- A reset leaves in the data registers what power-on does, whatever they held. -/
theorem resetCore_data (s : State) : (resetCore s).data = State.reset.data := rfl

theorem reset_matrices_zero : State.reset.block = Mat.zero ∧ State.reset.key = Mat.zero ∧
    State.reset.trace0 = Mat.zero ∧ State.reset.trace1 = Mat.zero ∧ State.reset.trace2 = Mat.zero ∧
    State.reset.trace3 = Mat.zero :=
  ⟨rfl, rfl, rfl, rfl, rfl, rfl⟩

/-- Settles O49: an asserted reset takes its input and then does `resetCore`, which reads nothing but the parameters and
the model's own fields; power-on leaves the same values by definition. -/
theorem resetValues : Obligations.ResetValues := by
  refine ⟨fun s hr => ⟨resetCore (taken s), step_reset hr, resetCore_data (taken s), ?_⟩, fun r c => ?_, ?_⟩
  · have hbusy : (resetCore (taken s)).busy = true := busy_eq_true_iff.2 (by simp)
    simp [hbusy]
  · obtain ⟨hblock, hkey, h0, h1, h2, h3⟩ := reset_matrices_zero
    simp [hblock, hkey, h0, h1, h2, h3]
  · exact ⟨rfl, rfl, rfl, rfl, rfl, rfl, rfl, rfl, rfl⟩

end Sys2Proof.Machine

namespace Sys2Proof.Machine

/-! ## Decoding and encoding undo each other -/

/-- R54's offsets decode to the read that returns 0. -/
theorem decode_readZero {off : Nat} (hoff : off ∈ zeroReadOffsets) : decode (.read .word off) = .ok (.rdZero off) := by
  have hall : ∀ n ∈ zeroReadOffsets, decode (.read .word n) = .ok (.rdZero n) := by decide
  exact hall off hoff

/-- R55's offsets decode to the ignored write. -/
theorem decode_writeIgnored {off : Nat} (hoff : off ∈ ignoredWriteOffsets) (v : Word) :
    decode (.write .word off v) = .ok (.wrIgnored off v) := by
  have hall : ∀ n ∈ ignoredWriteOffsets, n % 4 = 0 ∧ n < 0x80 ∧ n ∉ [0x00, 0x10, 0x14] := by decide
  obtain ⟨halign, hwindow, hport⟩ := hall off hoff
  obtain ⟨hdecode, -⟩ := ignoredWritesChangeNothing off v State.reset halign hwindow hport
  exact hdecode

/-- A command is written to CMD as its word, and the word decodes to it (R80, R84). -/
theorem decode_encode_command {i : Instr} (hwf : i.wf = true) (hi : i.isCommand = true) :
    decode (encode i) = .ok i := by
  obtain ⟨w, hw⟩ := Option.isSome_iff_exists.1 hi
  rw [encode_of_commandWord hw, decode_cmd, decodeCmd_of_commandWord hwf hw]

/-- Settles O1: a command by the fields of its word, a window access by its offset. -/
theorem decodeOfEncode : Obligations.DecodeOfEncode := by
  intro i hwf
  cases i with
  | wrBlkData v => rfl
  | wrKeyData v => rfl
  | rdStatus => rfl
  | rdResult => rfl
  | rdCount => rfl
  | rdStateW j => exact decode_readStateW j
  | rdTraceW t j => exact decode_readTraceW t j
  | rdZero off => exact decode_readZero (List.contains_iff_mem.1 hwf)
  | wrIgnored off v => exact decode_writeIgnored (List.contains_iff_mem.1 hwf) v
  | _ => exact decode_encode_command hwf rfl

/-- The word of the command that an opcode selects (R81). -/
theorem commandWord?_decodeOp (op : Nibble) (a b : Byte) :
    (decodeOp op a b).commandWord? = some (cmdWord op a b) := by
  obtain ⟨⟨n, hn⟩⟩ := op
  interval_cases n <;> rfl

/-- Every command word is the word of what it decodes to: no bit is dropped (R80, R84). -/
theorem commandWord?_decodeCmd (w : Word) : (decodeCmd w).commandWord? = some w := by
  conv_rhs => rw [← packCmd_fields w]
  by_cases h : rsv0Field w = 0 ∧ rsv1Field w = 0
  · obtain ⟨hrsv0, hrsv1⟩ := h
    rw [decodeCmd_eq_decodeOp ⟨hrsv0, hrsv1⟩, commandWord?_decodeOp, cmdWord, hrsv0, hrsv1]
  · rw [decodeCmd_eq_reservedFields h, Instr.commandWord?]

theorem decodeOp_wf (op : Nibble) (a b : Byte) : (decodeOp op a b).wf = true := by
  unfold decodeOp
  split <;> rfl

/-- What a command word decodes to is well-formed: the reserved-fields row has a nonzero field (R84). -/
theorem decodeCmd_wf (w : Word) : (decodeCmd w).wf = true := by
  by_cases h : rsv0Field w = 0 ∧ rsv1Field w = 0
  · rw [decodeCmd_eq_decodeOp h, decodeOp_wf]
  · rw [decodeCmd_eq_reservedFields h]
    simpa [Instr.wf, imp_iff_not_or] using h

/-- An access that passes the check is 32 bits wide at one of the window's 32 aligned offsets (R53). -/
theorem exists_offset_of_checkAccess {width : Width} {off : Int} {n : Nat} (h : checkAccess width off = .ok n) :
    width = .word ∧ off = n ∧ ∃ k : Fin 32, n = 4 * k.val := by
  obtain ⟨hwidth, hlow, hhigh, halign, rfl⟩ := (checkAccess_eq _ _ _).1 h
  exact ⟨hwidth, by omega, ⟨off.toNat / 4, by omega⟩, by simp only; omega⟩

/-- Each of the 32 reads is well-formed and has the offset it was decoded from (R52, R54). -/
theorem decodeRead_wf_encode (k : Fin 32) : (decodeRead (4 * k.val)).wf = true ∧
    encode (decodeRead (4 * k.val)) = .read .word ((4 * k.val : Nat) : Int) := by
  revert k
  decide

/-- Each of the 32 writes is well-formed and has the offset and the word it was decoded from (R52, R55, R80). -/
theorem decodeWrite_wf_encode (k : Fin 32) (v : Word) : (decodeWrite (4 * k.val) v).wf = true ∧
    encode (decodeWrite (4 * k.val) v) = .write .word ((4 * k.val : Nat) : Int) v := by
  by_cases hport : 4 * k.val ∈ [0x00, 0x10, 0x14]
  · simp only [List.mem_cons, List.not_mem_nil, or_false] at hport
    rcases hport with h | h | h <;> rw [h]
    · exact ⟨decodeCmd_wf v, encode_of_commandWord (commandWord?_decodeCmd v)⟩
    · exact ⟨rfl, rfl⟩
    · exact ⟨rfl, rfl⟩
  · have hall : ∀ k : Fin 32, 4 * k.val ∉ [0x00, 0x10, 0x14] → 4 * k.val ∈ ignoredWriteOffsets := by decide
    rw [decodeWrite_ignored hport]
    exact ⟨List.contains_iff_mem.2 (hall k hport), rfl⟩

/-- A pure function after a check answers only where the check does. -/
theorem exists_of_map_eq_ok {ε α β : Type} {f : α → β} {x : Except ε α} {b : β} (h : x.map f = .ok b) :
    ∃ a, x = .ok a ∧ f a = b := by
  cases x with
  | error e => cases h
  | ok a => exact ⟨a, rfl, Except.ok.inj h⟩

/-- Settles O2: the access check leaves 32 offsets, and what each decodes to is encoded at that offset. -/
theorem encodeOfDecode : Obligations.EncodeOfDecode := by
  intro a i h
  cases a with
  | read width off =>
    rw [decode_read] at h
    obtain ⟨n, hn, rfl⟩ := exists_of_map_eq_ok h
    obtain ⟨rfl, rfl, k, rfl⟩ := exists_offset_of_checkAccess hn
    exact decodeRead_wf_encode k
  | write width off v =>
    rw [decode_write] at h
    obtain ⟨n, hn, rfl⟩ := exists_of_map_eq_ok h
    obtain ⟨rfl, rfl, k, rfl⟩ := exists_offset_of_checkAccess hn
    exact decodeWrite_wf_encode k v

/-! ## The opcode map, written-out words and the register map -/

/-- Settles O4: R80's formula decodes by its opcode. -/
theorem opcodeMap : Obligations.OpcodeMap := by
  intro a b
  and_intros <;> exact decodeCmd_commandFormula (by decide) a b

/-- Settles O6, by evaluation of the decoder. -/
theorem writtenOutWords : Obligations.WrittenOutWords := by
  unfold Obligations.WrittenOutWords
  decide

/-- Settles O47: each offset by evaluation of the decoder, those of STATE_Wj and TRACEt_Wj for each j and t. -/
theorem registerMap : Obligations.RegisterMap :=
  ⟨decode_cmd, fun _ => rfl, fun _ => rfl, rfl, rfl, rfl, decode_readStateW, decode_readTraceW⟩

end Sys2Proof.Machine

namespace Sys2Proof.Machine

/-! ## Which input a step takes -/

/-- With no input there is none to take. -/
theorem taken_of_nil {s : State} (hin : s.inputs = []) : taken s = s := by
  cases s
  cases hin
  rfl

/-- The oldest input is taken, and those behind it are left. -/
theorem taken_of_cons {s : State} {i : Input} {rest : List Input} (hin : s.inputs = i :: rest) :
    taken s = { s with inputs := rest } := by
  rw [taken, hin, List.tail_cons]

/-- With no input the core moves (LOG 1). -/
theorem step_of_nil {s : State} (hin : s.inputs = []) : step s = coreMove s := by
  rw [step_coreNext (.inl hin), taken_of_nil hin]

/-- A second agent's access is refused before it is looked at (R67). -/
theorem step_secondHost {s : State} {agent : Nat} {a : Access} {rest : List Input}
    (hin : s.inputs = .access agent a :: rest) (hown : mayAccess s agent = false) :
    step s = .refused .secondHost := by
  have hown' : mayAccess { s with inputs := rest } agent = false := hown
  simp [step, advance, hin, takeInput, hown']

/-! ## The moves of the core -/

section
variable {s : State}

theorem coreMove_idle (hp : s.phase = .idle) : coreMove s = .next s := by
  simp only [coreMove, hp]

/-- A clock cycle passes, in INIT and in RUN (R35). -/
theorem coreMove_tick (hp : s.phase ≠ .idle) {n : Nat} (hr : s.rem = n + 1) :
    coreMove s = .next { s with rem := n } := by
  cases h : s.phase with
  | idle => exact absurd h hp
  | init => simp only [coreMove, h, hr]
  | run => simp only [coreMove, h, hr]

/-- The initialisation period ends with an admitted table (R261). -/
theorem coreMove_ready (hp : s.phase = .init) (hr : s.rem = 0) (hT : sboxBijective s.cfg.sbox = true) :
    coreMove s = .next { s with phase := .idle } := by
  simp only [coreMove, hp, hr, hT, if_true]

/-- The initialisation period ends with a table that is no bijection (R127). -/
theorem coreMove_notBijective (hp : s.phase = .init) (hr : s.rem = 0) (hT : sboxBijective s.cfg.sbox = false) :
    coreMove s = .refused .sboxNotBijective := by
  simp [coreMove, hp, hr, hT]

/-- The pending command has its effect (R35, R84). -/
theorem coreMove_completes (hp : s.phase = .run) (hr : s.rem = 0) : coreMove s = exec (decodeCmd s.pend) s := by
  simp only [coreMove, hp, hr]

end

/-- Settles O8: a step that is the core's is `coreMove`, which completes the command in RUN at REM = 0. -/
theorem stepCompletesPendingCommand : Obligations.StepCompletesPendingCommand := by
  refine fun s hp hr => ⟨fun hin => ?_, fun rest hin => ?_⟩
  · rw [step_of_nil hin, coreMove_completes hp hr]
  · rw [step_coreNext (.inr ⟨rest, hin⟩), taken_of_cons hin]
    exact coreMove_completes hp hr

/-- Settles O9: the step is `hostAccess`, by whether the access carries a command. -/
theorem stepRunsHostAccess : Obligations.StepRunsHostAccess := by
  intro s agent a rest i hnext hd
  rw [step_nextAccess hnext, takenBy_eq hnext]
  exact ⟨fun hi => hostAccess_window hd hi _, fun hi => hostAccess_command hd hi _⟩

/-- Settles O14: the owner is known, and it is not this agent. -/
theorem secondHostRefused : Obligations.SecondHostRefused := by
  intro s first second a rest hown hne hin
  exact step_secondHost hin (by simp [mayAccess, hown, hne.symm])

/-- Settles O15: with no input the step is `coreMove`, by REM and by whether the table is a bijection. -/
theorem initialisationEnds : Obligations.InitialisationEnds := by
  intro s hp hin
  rw [step_of_nil hin]
  refine ⟨fun n hr => coreMove_tick (by simp [hp]) hr, fun hr hlen hnodup => ?_, fun hr hT => ?_⟩
  · exact coreMove_ready hp hr (sboxBijective_iff.2 ⟨hlen, hnodup⟩)
  · rw [← sboxBijective_iff, Bool.not_eq_true] at hT
    exact coreMove_notBijective hp hr hT

end Sys2Proof.Machine

namespace Sys2Proof.Machine

/-! ## What a step changes, with its window access resolved -/

/-- The next thing that happens to s is a write of CMD, BLK_DATA or KEY_DATA (R58). -/
def PortWrite (s : State) : Prop := ∃ v, Writing s 0x00 v ∨ Writing s 0x10 v ∨ Writing s 0x14 v

/-- `StepCase` with the effect of a command and of a window access written out. -/
inductive StepEffect (s : State) : State → Prop
  /-- The pending command ends (R35, R235). -/
  | completes {u : State} {e : Nibble} {lb lk : Bool} (hc : Completing s)
      (heffect : CommandEffect (decodeCmd s.pend) (taken s) u e lb lk) : StepEffect s (finish e lb lk u)
  /-- Reset (R260). -/
  | resets (hr : Resetting s) : StepEffect s (resetCore (taken s))
  /-- A CMD write in IDLE (R56). -/
  | starts {agent : Nat} {v : Word} (hw : Writing s 0x00 v) (hidle : s.phase = .idle) :
      StepEffect s (startCmd v (takenBy agent s))
  /-- A BLK_DATA write in IDLE (R140). -/
  | loadsBlock {agent : Nat} {v : Word} (hw : Writing s 0x10 v) (hidle : s.phase = .idle) :
      StepEffect s (loadBlock v (takenBy agent s))
  /-- A KEY_DATA write in IDLE (R141). -/
  | loadsKey {agent : Nat} {v : Word} (hw : Writing s 0x14 v) (hidle : s.phase = .idle) :
      StepEffect s (loadKey v (takenBy agent s))
  /-- A write of one of the three ports while BUSY = 1 (R58). -/
  | drops {agent : Nat} (hw : PortWrite s) (hbusy : s.busy = true) : StepEffect s (dropWrite (takenBy agent s))
  /-- A read, or a write that is ignored (R54, R55, R60). -/
  | answers {agent : Nat} {reads : List Word} {draws : Nat} (hw : ¬ PortWrite s) (hn : ¬ CoreNext s) :
      StepEffect s { takenBy agent s with hostReads := reads, draws := draws }
  /-- IDLE with nothing to do. -/
  | idles (hn : CoreNext s) (hidle : s.phase = .idle) : StepEffect s (taken s)
  /-- The initialisation period ends (R261). -/
  | ready (hn : CoreNext s) (hinit : s.phase = .init) (hr : s.rem = 0) : StepEffect s { taken s with phase := .idle }
  /-- A clock cycle passes (R35). -/
  | ticks {n : Nat} (hn : CoreNext s) (hp : s.phase ≠ .idle) (hr : s.rem = n + 1) :
      StepEffect s { taken s with rem := n }

theorem not_coreNext_of_access {s : State} {agent : Nat} {a : Access} {rest : List Input}
    (hin : s.inputs = .access agent a :: rest) : ¬ CoreNext s := by
  simp [CoreNext, hin]

theorem Writing.not_coreNext {s : State} {off : Int} {v : Word} (h : Writing s off v) : ¬ CoreNext s := by
  obtain ⟨agent, rest, hin⟩ := h
  exact not_coreNext_of_access hin

theorem PortWrite.not_coreNext {s : State} (h : PortWrite s) : ¬ CoreNext s := by
  obtain ⟨v, h | h | h⟩ := h <;> exact h.not_coreNext

/-- The next input is written at one offset only. -/
theorem Writing.offset_unique {s : State} {off off' : Int} {v v' : Word} (h : Writing s off v)
    (h' : Writing s off' v') : off = off' := by
  obtain ⟨agent, rest, hin⟩ := h
  obtain ⟨agent', rest', hin'⟩ := h'
  rw [hin] at hin'
  simp only [List.cons.injEq, Input.access.injEq, Access.write.injEq] at hin'
  tauto

/-- A window access writes no port unless it decodes to a loader's write: CMD, BLK_DATA and KEY_DATA decode so (R52). -/
theorem not_portWrite_of_window {s : State} {agent : Nat} {a : Access} {rest : List Input} {i : Instr}
    (hin : s.inputs = .access agent a :: rest) (hd : decode a = .ok i) (hi : i.isCommand = false)
    (hport : ∀ v, i ≠ .wrBlkData v ∧ i ≠ .wrKeyData v) : ¬ PortWrite s := by
  have hwrite {off : Int} {v : Word} (hw : Writing s off v) : decode (.write .word off v) = .ok i := by
    obtain ⟨agent', rest', hin'⟩ := hw
    rw [hin] at hin'
    cases hin'
    exact hd
  rintro ⟨v, hw | hw | hw⟩
  · cases (decode_cmd v).symm.trans (hwrite hw)
    rw [decodeCmd_isCommand] at hi
    cases hi
  · cases hwrite hw
    exact (hport v).1 rfl
  · cases hwrite hw
    exact (hport v).2 rfl

/-- A read changes nothing but the words read and the free values drawn (R60). -/
theorem Returns.eq_record {s t : State} {w : Option Word} (h : Returns s t w) :
    t = { s with hostReads := t.hostReads, draws := t.draws } := by
  obtain ⟨hdata, hcontrol, hovf, -⟩ := h
  cases s
  cases t
  simp_all [State.data, KeepsControl]

/-- An access that decodes to a loader's write is a write of its port (R52). -/
theorem write_of_decode {s : State} {agent : Nat} {a : Access} {rest : List Input} {i : Instr} {off : Int} {v : Word}
    (hin : s.inputs = .access agent a :: rest) (hd : decode a = .ok i) (hencode : encode i = .write .word off v) :
    Writing s off v := by
  obtain ⟨-, ha⟩ := encodeOfDecode a i hd
  exact ⟨agent, rest, by rw [hin, ← ha, hencode]⟩

/-- A command that answers a next state has ended, and `CommandEffect` says what it changed (R235). -/
theorem exec_command_next {i : Instr} (hi : i.isCommand = true) {s t : State} (h : exec i s = .next t) :
    ∃ u e lb lk, t = finish e lb lk u ∧ CommandEffect i s u e lb lk := by
  obtain ⟨u, e, lb, lk, hend, heffect⟩ := exec_command hi s
  exact ⟨u, e, lb, lk, Host.Outcome.next.inj (h.symm.trans hend), heffect⟩

/-- Every step that answers a next state has one of these effects. -/
theorem step_effect {s t : State} (h : step s = .next t) : StepEffect s t := by
  cases step_cases h with
  | completes hc hexec =>
    obtain ⟨u, e, lb, lk, rfl, heffect⟩ := exec_command_next (decodeCmd_isCommand s.pend) hexec
    exact .completes hc heffect
  | resets hr => exact .resets hr
  | command agent v rest hin hown =>
    have hw : Writing s 0x00 v := ⟨agent, rest, hin⟩
    cases hb : s.busy with
    | false =>
      rw [acceptCmd_idle (by simpa using hb)]
      exact .starts hw (busy_eq_false_iff.1 hb)
    | true =>
      rw [acceptCmd_busy (by simpa using hb)]
      exact .drops ⟨v, .inl hw⟩ hb
  | window agent a rest hin hown i hd hi hexec =>
    rcases exec_window hi hexec with ⟨v, rfl, hb, rfl⟩ | ⟨v, rfl, hb, rfl⟩ | ⟨hport, hb, rfl⟩ |
      ⟨hport, hreturns | rfl⟩
    · exact .loadsBlock (write_of_decode hin hd rfl) (busy_eq_false_iff.1 hb)
    · exact .loadsKey (write_of_decode hin hd rfl) (busy_eq_false_iff.1 hb)
    · rcases hport with ⟨v, rfl⟩ | ⟨v, rfl⟩
      · exact .drops ⟨v, .inr (.inl (write_of_decode hin hd rfl))⟩ hb
      · exact .drops ⟨v, .inr (.inr (write_of_decode hin hd rfl))⟩ hb
    · rw [hreturns.eq_record]
      exact .answers (not_portWrite_of_window hin hd hi hport) (not_coreNext_of_access hin)
    · exact .answers (not_portWrite_of_window hin hd hi hport) (not_coreNext_of_access hin)
  | idles hn hp => exact .idles hn hp
  | ready hn hp hr hb => exact .ready hn hp hr
  | ticks hn hp n hr => exact .ticks hn hp hr

/-- A step takes the oldest input and leaves the others, whatever else it does (LOG 1). -/
theorem step_inputs {s t : State} (h : step s = .next t) : t.inputs = s.inputs.tail := by
  cases step_effect h with
  | completes hc heffect => exact heffect.inputs
  | _ => rfl

end Sys2Proof.Machine

namespace Sys2Proof.Machine

/-! ## The invariant -/

/-- The invariant is about ERR, LENB, LENK, the data registers, and REM in IDLE. -/
theorem Inv.of_same {s t : State} (hs : Inv s) (herr : t.err = s.err) (hlenb : t.lenb = s.lenb)
    (hlenk : t.lenk = s.lenk) (hdata : t.data = s.data) (hidle : t.phase = .idle → t.rem = 0) : Inv t := by
  obtain ⟨hblock, hkey, hblkCnt, hkeyCnt⟩ :
      t.block = s.block ∧ t.key = s.key ∧ t.blkCnt = s.blkCnt ∧ t.keyCnt = s.keyCnt := by
    simp_all [State.data]
  constructor
  case err_legal => rw [herr]; exact hs.err_legal
  case err_length => rw [herr, hlenb, hlenk]; exact hs.err_length
  case idle_rem => exact hidle
  case block_tail => rw [hblock, hblkCnt]; exact hs.block_tail
  case key_tail => rw [hkey, hkeyCnt]; exact hs.key_tail

/-- The invariant says nothing of the inputs. -/
theorem Inv.taken {s : State} (hs : Inv s) : Inv (taken s) := hs.of_same rfl rfl rfl rfl hs.idle_rem

/-- Nor of the owner. -/
theorem Inv.takenBy {s : State} (hs : Inv s) (agent : Nat) : Inv (takenBy agent s) :=
  hs.of_same rfl rfl rfl rfl hs.idle_rem

/-- The invariant holds after a reset: the codes are 0, the registers are cleared and PHASE is not IDLE (R260). -/
theorem inv_resetWith (c : Config) (draws : Nat) (owner : Option Nat) (inputs : List Input) (reads : List Word) :
    Inv (State.resetWith c draws owner inputs reads) where
  err_legal := by simp [State.resetWith]
  err_length := by simp [State.resetWith, errInvalidLength]
  idle_rem := by simp [State.resetWith]
  block_tail := fun i _ _ => Mat.zero_flat i
  key_tail := fun i _ _ => Mat.zero_flat i

/-- Settles O50. -/
theorem resetMeetsInvariant : Obligations.ResetMeetsInvariant := inv_resetWith _ _ _ _ _

/-- After a loader's write the bytes from the new count on are 0x00, as those from the old count on were (R37, R140). -/
theorem loadByte_tail {S : Mat} {cnt : BitVec 5} (h : ∀ i, i < 16 → cnt.toNat ≤ i → S.flat i = 0) (d : Byte) :
    ∀ i, i < 16 → (countByte cnt).toNat ≤ i → (loadByte S cnt d).flat i = 0 := by
  intro i hi hcnt
  rw [countByte_toNat] at hcnt
  rw [loadByte_flat S cnt d hi, if_neg (by omega)]
  exact h i hi (by omega)

theorem Inv.loadBlock {s : State} (hs : Inv s) (v : Word) : Inv (loadBlock v s) where
  err_legal := hs.err_legal
  err_length := hs.err_length
  idle_rem := hs.idle_rem
  block_tail := loadByte_tail hs.block_tail _
  key_tail := hs.key_tail

theorem Inv.loadKey {s : State} (hs : Inv s) (v : Word) : Inv (loadKey v s) where
  err_legal := hs.err_legal
  err_length := hs.err_length
  idle_rem := hs.idle_rem
  block_tail := hs.block_tail
  key_tail := loadByte_tail hs.key_tail _

/-- The end of a command at REM = 0: the outcome is one of three, and a register is left full, cleared or as it was. -/
theorem Inv.finish {i : Instr} {s u : State} {e : Nibble} {lb lk : Bool} (hs : Inv s) (hrem : s.rem = 0)
    (h : CommandEffect i s u e lb lk) : Inv (finish e lb lk u) := by
  constructor
  case err_legal => rcases h.outcome with ⟨rfl, -⟩ | ⟨rfl, -⟩ | ⟨rfl, -⟩ <;> simp
  case err_length =>
    rcases h.outcome with ⟨rfl, rfl, rfl⟩ | ⟨rfl, hlen⟩ | ⟨rfl, rfl, rfl⟩
    · simp [errInvalidLength]
    · exact iff_of_true rfl hlen
    · simp [errInvalidLength]
  case idle_rem => exact fun _ => h.rem.trans hrem
  case block_tail =>
    rw [finish_block, finish_blkCnt]
    rcases h.block with ⟨hblock, hcnt⟩ | ⟨-, hcnt, hfull⟩ | ⟨-, hblock, -⟩
    · rw [hblock, hcnt]
      exact hs.block_tail
    · rw [hcnt, hfull]
      exact fun i hi hle => absurd hle (Nat.not_le.2 hi)
    · rw [hblock]
      exact fun i _ _ => Mat.zero_flat i
  case key_tail =>
    rw [finish_key, finish_keyCnt]
    rcases h.key with ⟨hkey, hcnt⟩ | ⟨-, hkey, -⟩
    · rw [hkey, hcnt]
      exact hs.key_tail
    · rw [hkey]
      exact fun i _ _ => Mat.zero_flat i

/-- Settles O51, by the effects a step can have. -/
theorem stepKeepsInvariant : Obligations.StepKeepsInvariant := by
  intro s t hs h
  cases step_effect h with
  | completes hc heffect =>
    obtain ⟨-, hrem, -⟩ := hc
    exact hs.taken.finish hrem heffect
  | resets hr => exact inv_resetWith _ _ _ _ _
  | starts hw hidle => exact hs.of_same rfl rfl rfl rfl nofun
  | loadsBlock hw hidle => exact (hs.takenBy _).loadBlock _
  | loadsKey hw hidle => exact (hs.takenBy _).loadKey _
  | drops hw hbusy => exact hs.of_same rfl rfl rfl rfl hs.idle_rem
  | answers hw hn => exact hs.of_same rfl rfl rfl rfl hs.idle_rem
  | idles hn hidle => exact hs.taken
  | ready hn hinit hr => exact hs.of_same rfl rfl rfl rfl fun _ => hr
  | ticks hn hp hr => exact hs.of_same rfl rfl rfl rfl fun hidle => absurd hidle hp

/-! ## Where a step stops -/

/-- A step's input is an access of another agent than the owner, or one that does not decode, under the refusal's name
(R53, R67). -/
def HostStop (s : State) (r : Refusal) : Prop :=
  ∃ agent a rest, s.inputs = .access agent a :: rest ∧
    ((r = .secondHost ∧ ∃ h, s.owner = some h ∧ h ≠ agent) ∨ ∃ e, decode a = .error e ∧ r = accessRefusal e)

/-- The initialisation period ends with a table that is no bijection (R127). -/
def TableStop (s : State) (r : Refusal) : Prop :=
  r = .sboxNotBijective ∧ CoreNext s ∧ s.phase = .init ∧ s.rem = 0 ∧ sboxBijective s.cfg.sbox = false

/-- A move of the core goes on or is stopped by the table. -/
theorem coreMove_next_or_refused (s : State) :
    (∃ t, coreMove s = .next t) ∨
      (coreMove s = .refused .sboxNotBijective ∧ s.phase = .init ∧ s.rem = 0 ∧ sboxBijective s.cfg.sbox = false) := by
  by_cases hidle : s.phase = .idle
  · exact .inl ⟨_, coreMove_idle hidle⟩
  cases hr : s.rem with
  | succ n => exact .inl ⟨_, coreMove_tick hidle hr⟩
  | zero =>
    cases hp : s.phase with
    | idle => exact absurd hp hidle
    | init =>
      cases hT : sboxBijective s.cfg.sbox with
      | true => exact .inl ⟨_, coreMove_ready hp hr hT⟩
      | false => exact .inr ⟨coreMove_notBijective hp hr hT, rfl, rfl, rfl⟩
    | run =>
      obtain ⟨u, e, lb, lk, hend, -⟩ := exec_command (decodeCmd_isCommand s.pend) s
      exact .inl ⟨_, (coreMove_completes hp hr).trans hend⟩

/-- While ERR is a code the hardware produces, a host access goes on or does not decode (R30, R53). -/
theorem hostAccess_next_or_refused (a : Access) {s : State} (herr : s.err.toNat ≤ 2) :
    (∃ t, hostAccess a s = .next t) ∨
      ∃ e, decode a = .error e ∧ hostAccess a s = .refused (accessRefusal e) := by
  cases hd : decode a with
  | error e => exact .inr ⟨e, rfl, hostAccess_error hd s⟩
  | ok i =>
    cases hi : i.isCommand with
    | true => exact .inl ⟨_, hostAccess_command hd hi s⟩
    | false =>
      obtain ⟨t, ht⟩ := exec_window_completes hi herr
      exact .inl ⟨t, (hostAccess_window hd hi s).trans ht⟩

/-- While ERR is a code the hardware produces, a step goes on or is refused for a cause of the host's or the table's. -/
theorem step_next_or_refused {s : State} (herr : s.err.toNat ≤ 2) :
    (∃ t, step s = .next t) ∨ ∃ r, step s = .refused r ∧ (HostStop s r ∨ TableStop s r) := by
  have hcore (hn : CoreNext s) :
      (∃ t, step s = .next t) ∨ ∃ r, step s = .refused r ∧ (HostStop s r ∨ TableStop s r) := by
    rw [step_coreNext hn]
    exact (coreMove_next_or_refused (taken s)).imp_right fun ⟨hstop, hp, hr, hT⟩ =>
      ⟨_, hstop, .inr ⟨rfl, hn, hp, hr, hT⟩⟩
  match hin : s.inputs with
  | [] => exact hcore (.inl hin)
  | .core :: rest => exact hcore (.inr ⟨rest, hin⟩)
  | .reset :: rest => exact .inl ⟨_, step_reset ⟨rest, hin⟩⟩
  | .access agent a :: rest =>
    cases hown : mayAccess s agent with
    | true =>
      rw [step_access hin hown]
      exact (hostAccess_next_or_refused a (s := takenBy agent s) herr).imp_right fun ⟨e, hd, hstop⟩ =>
        ⟨_, hstop, .inl ⟨agent, a, rest, hin, .inr ⟨e, hd, rfl⟩⟩⟩
    | false =>
      have howner : ∃ h, s.owner = some h ∧ h ≠ agent := by
        rw [← Bool.not_eq_true, mayAccess_iff, not_or] at hown
        obtain ⟨h, hh⟩ := Option.ne_none_iff_exists'.1 hown.1
        exact ⟨h, hh, fun heq => hown.2 (by rw [hh, heq])⟩
      exact .inr ⟨_, step_secondHost hin hown, .inl ⟨agent, a, rest, hin, .inl ⟨rfl, howner⟩⟩⟩

/-- Settles O52: a state that meets `Inv` has a legal ERR code, so `step_next_or_refused` names every stop. -/
theorem stopsAreNamed : Obligations.StopsAreNamed := by
  intro s hs
  rcases step_next_or_refused hs.err_legal with ⟨t, ht⟩ | ⟨r, hr, hcause⟩
  · rw [ht]
    exact ⟨nofun, nofun⟩
  · rw [hr]
    refine ⟨nofun, fun r' hr' => ?_⟩
    cases hr'
    exact hcause

/-- A stop of the host's has one of the names of `hostRefusal`. -/
theorem HostStop.hostRefusal {s : State} {r : Refusal} (h : HostStop s r) : hostRefusal r = true := by
  obtain ⟨agent, a, rest, -, ⟨rfl, -⟩ | ⟨e, -, rfl⟩⟩ := h
  · rfl
  · cases e <;> rfl

/-! ## Every busy period ends -/

/-- With an admitted table and no input left, the core's own moves lead to IDLE: REM of them, and the end of INIT or of
the command. -/
theorem runs_reaches_idle {s : State} (hT : sboxBijective s.cfg.sbox = true) (hin : s.inputs = []) :
    ∃ n t, runs n s = .next t ∧ t.phase = .idle ∧ t.inputs = [] := by
  by_cases hidle : s.phase = .idle
  · exact ⟨0, s, runs_zero s, hidle, hin⟩
  induction hr : s.rem generalizing s with
  | succ n ih =>
    have hstep : step s = .next { s with rem := n } := (step_of_nil hin).trans (coreMove_tick hidle hr)
    obtain ⟨m, t, hrun, ht⟩ := ih (s := { s with rem := n }) hT hin hidle rfl
    exact ⟨m + 1, t, (runs_succ_next hstep m).trans hrun, ht⟩
  | zero =>
    cases hp : s.phase with
    | idle => exact absurd hp hidle
    | init =>
      have hstep := (step_of_nil hin).trans (coreMove_ready hp hr hT)
      exact ⟨1, _, (runs_one s).trans hstep, rfl, hin⟩
    | run =>
      obtain ⟨u, e, lb, lk, hend, heffect⟩ := exec_command (decodeCmd_isCommand s.pend) s
      have hstep := (step_of_nil hin).trans ((coreMove_completes hp hr).trans hend)
      exact ⟨1, _, (runs_one s).trans hstep, rfl, heffect.inputs.trans hin⟩

/-- Settles O57, by induction on the inputs: a step takes one and keeps the invariant and the table, or the host is
stopped; with no input left, the core's own moves lead to IDLE. -/
theorem busyPeriodsEnd : Obligations.BusyPeriodsEnd := by
  intro s hs hT
  induction hin : s.inputs generalizing s with
  | nil =>
    obtain ⟨n, ht⟩ := runs_reaches_idle hT hin
    exact ⟨n, .inl ht⟩
  | cons i rest ih =>
    rcases step_next_or_refused hs.err_legal with ⟨u, hu⟩ | ⟨r, hr, hhost | htable⟩
    · have hinputs : u.inputs = rest := by rw [step_inputs hu, hin, List.tail_cons]
      obtain ⟨n, hn⟩ := ih u (stepKeepsInvariant s u hs hu) (by rw [step_cfg hu, hT]) hinputs
      exact ⟨n + 1, by rwa [runs_succ_next hu]⟩
    · exact ⟨1, .inr ⟨r, (runs_one s).trans hr, hhost.hostRefusal⟩⟩
    · obtain ⟨-, -, -, -, hno⟩ := htable
      exact absurd (hno.symm.trans hT) nofun

end Sys2Proof.Machine

namespace Sys2Proof.Machine

/-! ## A pending command -/

/-- A completing step ends the pending command (R35, R235). -/
theorem step_of_completing {s : State} (h : Completing s) :
    ∃ u e lb lk, step s = .next (finish e lb lk u) := by
  obtain ⟨hrun, hrem, hn⟩ := h
  obtain ⟨u, e, lb, lk, hend, -⟩ := exec_command (decodeCmd_isCommand s.pend) (taken s)
  exact ⟨u, e, lb, lk, (step_coreNext hn).trans ((coreMove_completes (s := taken s) hrun hrem).trans hend)⟩

/-- Settles O13: in RUN a step that neither completes nor resets drops a write, answers a read or lets a cycle pass. -/
theorem nothingChangesBeforeCompletion : Obligations.NothingChangesBeforeCompletion := by
  intro s t hrun hc hr h
  cases step_effect h with
  | completes hcompleting => exact absurd hcompleting hc
  | resets hreset => exact absurd hreset hr
  | drops hw hbusy => exact ⟨rfl, rfl, hrun, rfl, rfl, rfl, rfl⟩
  | answers hw hn => exact ⟨rfl, rfl, hrun, rfl, rfl, rfl, rfl⟩
  | ticks hn hp hrem => exact ⟨rfl, rfl, hrun, rfl, rfl, rfl, rfl⟩
  | starts hw hidle => exact absurd (hrun.symm.trans hidle) nofun
  | loadsBlock hw hidle => exact absurd (hrun.symm.trans hidle) nofun
  | loadsKey hw hidle => exact absurd (hrun.symm.trans hidle) nofun
  | idles hn hidle => exact absurd (hrun.symm.trans hidle) nofun
  | ready hn hinit => exact absurd (hrun.symm.trans hinit) nofun

/-! ## Which steps write the data registers -/

section
variable {s t : State} (h : step s = .next t) (hr : ¬ Resetting s)
include h hr

/-- R22. -/
theorem step_block_writers (hne : t.block ≠ s.block) :
    (s.phase = .idle ∧ ∃ v, Writing s 0x10 v) ∨ (Completing s ∧ writesBlock (decodeCmd s.pend) = true) := by
  cases step_effect h with
  | completes hc heffect =>
    rcases heffect.block with ⟨hsame, -⟩ | ⟨hwrites, -⟩ | ⟨hwrites, -⟩
    · exact absurd hsame hne
    · exact .inr ⟨hc, hwrites⟩
    · exact .inr ⟨hc, hwrites⟩
  | resets hreset => exact absurd hreset hr
  | loadsBlock hw hidle => exact .inl ⟨hidle, _, hw⟩
  | _ => exact absurd rfl hne

/-- R23. -/
theorem step_key_writers (hne : t.key ≠ s.key) :
    (s.phase = .idle ∧ ∃ v, Writing s 0x14 v) ∨ (Completing s ∧ writesKey (decodeCmd s.pend) = true) := by
  cases step_effect h with
  | completes hc heffect =>
    rcases heffect.key with ⟨hsame, -⟩ | ⟨hwrites, -⟩
    · exact absurd hsame hne
    · exact .inr ⟨hc, hwrites⟩
  | resets hreset => exact absurd hreset hr
  | loadsKey hw hidle => exact .inl ⟨hidle, _, hw⟩
  | _ => exact absurd rfl hne

/-- R26. -/
theorem step_result_writers (hne : t.result ≠ s.result) :
    Completing s ∧ writesResult (decodeCmd s.pend) = true ∧ t.err = 0 := by
  cases step_effect h with
  | completes hc heffect => exact ⟨hc, heffect.result.resolve_left hne⟩
  | resets hreset => exact absurd hreset hr
  | _ => exact absurd rfl hne

/-- R27. -/
theorem step_trace_writers
    (hne : t.trace0 ≠ s.trace0 ∨ t.trace1 ≠ s.trace1 ∨ t.trace2 ≠ s.trace2 ∨ t.trace3 ≠ s.trace3) :
    Completing s ∧ writesTrace (decodeCmd s.pend) = true ∧ t.err = 0 := by
  simp only [ne_eq, ← not_and_or] at hne
  cases step_effect h with
  | completes hc heffect => exact ⟨hc, heffect.trace.resolve_left hne⟩
  | resets hreset => exact absurd hreset hr
  | _ => exact absurd ⟨rfl, rfl, rfl, rfl⟩ hne

end

/-- Settles O53, register by register. -/
theorem registerWriters : Obligations.RegisterWriters := fun _ _ h hr =>
  ⟨step_block_writers h hr, step_key_writers h hr, step_result_writers h hr, step_trace_writers h hr⟩

/-! ## Which steps write the STATUS fields -/

section
variable {s t : State} (h : step s = .next t) (hr : ¬ Resetting s)
include h hr

/-- R235. -/
theorem step_outcome_unchanged (hc : ¬ Completing s) : t.err = s.err ∧ t.lenb = s.lenb ∧ t.lenk = s.lenk := by
  cases step_effect h with
  | completes hcompleting => exact absurd hcompleting hc
  | resets hreset => exact absurd hreset hr
  | _ => exact ⟨rfl, rfl, rfl⟩

/-- R29, R58. -/
theorem step_ovf_iff : t.ovf = true ↔ s.ovf = true ∨ (s.busy = true ∧ PortWrite s) := by
  have hquiet (hw : ¬ PortWrite s) : s.ovf = true ↔ s.ovf = true ∨ (s.busy = true ∧ PortWrite s) := by tauto
  have hfree (hidle : s.phase = .idle) : s.ovf = true ↔ s.ovf = true ∨ (s.busy = true ∧ PortWrite s) := by
    simp [busy_eq_true_iff, hidle]
  cases step_effect h with
  | completes hc heffect =>
    obtain ⟨-, -, hn⟩ := hc
    rw [finish_ovf, heffect.ovf]
    exact hquiet fun hw => hw.not_coreNext hn
  | resets hreset => exact absurd hreset hr
  | drops hw hbusy => exact iff_of_true rfl (.inr ⟨hbusy, hw⟩)
  | starts hw hidle => exact hfree hidle
  | loadsBlock hw hidle => exact hfree hidle
  | loadsKey hw hidle => exact hfree hidle
  | answers hw hn => exact hquiet hw
  | idles hn hidle => exact hfree hidle
  | ready hn hinit hrem => exact hquiet fun hw => hw.not_coreNext hn
  | ticks hn hp hrem => exact hquiet fun hw => hw.not_coreNext hn

/-- R35, R56: IDLE is left by a CMD write, to RUN. -/
theorem step_from_idle (hidle : s.phase = .idle) :
    t.phase ≠ .init ∧ (t.phase = .run ↔ ∃ v, Writing s 0x00 v) := by
  have hstays (hp : t.phase = .idle) (hw : ∀ v, ¬ Writing s 0x00 v) :
      t.phase ≠ .init ∧ (t.phase = .run ↔ ∃ v, Writing s 0x00 v) := by simp [hp, hw]
  cases step_effect h with
  | completes hc => exact absurd (hidle.symm.trans hc.1) nofun
  | resets hreset => exact absurd hreset hr
  | starts hw => exact ⟨nofun, iff_of_true rfl ⟨_, hw⟩⟩
  | loadsBlock hw => exact hstays hidle fun v hcmd => absurd (hw.offset_unique hcmd) (by decide)
  | loadsKey hw => exact hstays hidle fun v hcmd => absurd (hw.offset_unique hcmd) (by decide)
  | drops hw hbusy => exact absurd hidle (busy_eq_true_iff.1 hbusy)
  | answers hw hn => exact hstays hidle fun v hcmd => hw ⟨v, .inl hcmd⟩
  | idles hn => exact hstays hidle fun v hcmd => hcmd.not_coreNext hn
  | ready hn hinit => exact absurd (hidle.symm.trans hinit) nofun
  | ticks hn hp => exact absurd hidle hp

/-- R35: RUN is left by the command's completion, to IDLE. -/
theorem step_from_run (hrun : s.phase = .run) : t.phase ≠ .init ∧ (t.phase = .idle ↔ Completing s) := by
  by_cases hc : Completing s
  · obtain ⟨u, e, lb, lk, hend⟩ := step_of_completing hc
    cases hend.symm.trans h
    exact ⟨nofun, iff_of_true rfl hc⟩
  · obtain ⟨-, -, hphase, -⟩ := nothingChangesBeforeCompletion s t hrun hc hr h
    simp [hphase, hc]

/-- R35, R261: INIT is left by the core's move at REM = 0, to IDLE. -/
theorem step_from_init (hinit : s.phase = .init) :
    t.phase ≠ .run ∧ (t.phase = .idle ↔ (s.rem = 0 ∧ CoreNext s)) := by
  have hstays (hp : t.phase = .init) (hmove : ¬ (s.rem = 0 ∧ CoreNext s)) :
      t.phase ≠ .run ∧ (t.phase = .idle ↔ (s.rem = 0 ∧ CoreNext s)) := by simp [hp, hmove]
  cases step_effect h with
  | completes hc => exact absurd (hinit.symm.trans hc.1) nofun
  | resets hreset => exact absurd hreset hr
  | starts hw hidle => exact absurd (hinit.symm.trans hidle) nofun
  | loadsBlock hw hidle => exact absurd (hinit.symm.trans hidle) nofun
  | loadsKey hw hidle => exact absurd (hinit.symm.trans hidle) nofun
  | drops hw => exact hstays hinit fun ⟨_, hn⟩ => hw.not_coreNext hn
  | answers hw hn => exact hstays hinit fun ⟨_, hmove⟩ => hn hmove
  | idles hn hidle => exact absurd (hinit.symm.trans hidle) nofun
  | ready hn _ hrem => exact ⟨nofun, iff_of_true rfl ⟨hrem, hn⟩⟩
  | ticks hn hp hrem => exact hstays hinit fun ⟨hzero, _⟩ => absurd (hrem.symm.trans hzero) nofun

end

/-- Settles O54, field by field and phase by phase. -/
theorem statusWriters : Obligations.StatusWriters := by
  intro s t h hr
  have hovf := step_ovf_iff h hr
  refine ⟨fun hne => ?_, fun hset => hovf.2 (.inl hset), fun hclear => ?_, ?_, step_from_idle h hr,
    step_from_run h hr, step_from_init h hr⟩
  · by_contra hc
    have hsame := step_outcome_unchanged h hr hc
    tauto
  · rw [hovf, hclear]
    exact or_iff_right nofun
  · rw [busy_eq_true_iff]
    cases t.phase <;> simp

/-! ## OVF over a run without reset -/

/-- A run of k + m steps that answers a next state is a run of k steps and then one of m. -/
theorem runs_add_inv {k m : Nat} {s t : State} (h : runs (k + m) s = .next t) :
    ∃ u, runs k s = .next u ∧ runs m u = .next t := by
  induction k generalizing s with
  | zero => exact ⟨s, rfl, by rwa [Nat.zero_add] at h⟩
  | succ k ih =>
    rw [Nat.succ_add] at h
    obtain ⟨v, hv, h'⟩ := runs_succ_inv h
    obtain ⟨u, hu, ht⟩ := ih h'
    exact ⟨u, (runs_succ_next hv k).trans hu, ht⟩

theorem not_resetting {s : State} (h : .reset ∉ s.inputs) : ¬ Resetting s := by
  rintro ⟨rest, hin⟩
  simp [hin] at h

/-- A step adds no input, so it adds no reset. -/
theorem step_no_reset {s t : State} (hs : .reset ∉ s.inputs) (h : step s = .next t) : .reset ∉ t.inputs := by
  rw [step_inputs h]
  exact fun hmem => hs (List.mem_of_mem_tail hmem)

/-- Where no reset is to come, OVF stays set (R29). -/
theorem step_keeps_ovf {s t : State} (hs : .reset ∉ s.inputs ∧ s.ovf = true) (h : step s = .next t) :
    .reset ∉ t.inputs ∧ t.ovf = true := by
  obtain ⟨hnoReset, hset⟩ := hs
  exact ⟨step_no_reset hnoReset h, (step_ovf_iff h (not_resetting hnoReset)).2 (.inl hset)⟩

/-- Settles O55: an OVF set on the way would still be set at the end. -/
theorem protocolKeptThroughout : Obligations.ProtocolKeptThroughout := by
  intro n k s t u hs hk hsafe hu
  obtain ⟨hrun, hclear⟩ := hsafe
  obtain ⟨m, rfl⟩ := Nat.exists_eq_add_of_le hk
  obtain ⟨u', hu', ht⟩ := runs_add_inv hrun
  cases hu.symm.trans hu'
  have hnoReset : .reset ∉ u.inputs :=
    runs_keeps (P := fun v => .reset ∉ v.inputs) (fun _ _ hv => step_no_reset hv) hs hu
  by_contra hset
  obtain ⟨-, hend⟩ := runs_keeps (P := fun v => .reset ∉ v.inputs ∧ v.ovf = true) (fun _ _ hv => step_keeps_ovf hv)
    ⟨hnoReset, Bool.of_not_eq_false hset⟩ ht
  exact absurd (hclear.symm.trans hend) nofun

end Sys2Proof.Machine

namespace Sys2Proof.Machine

/-! ## Systems of instances -/

/-- A step of core k replaces that core by what its own step answers, or there is none to step (R65). -/
theorem systemStep_next_iff {k : Nat} {y z : System} :
    systemStep k y = .next z ↔
      (y.insts[k]? = none ∧ z = y) ∨
        ∃ s t, y.insts[k]? = some s ∧ step s = .next t ∧ z = { y with insts := y.insts.set k t } := by
  unfold systemStep
  cases y.insts[k]? with
  | none => simp [eq_comm]
  | some s => cases h : step s <;> simp [h, eq_comm]

/-- The instances of a system are as many after a step, and those not stepped are as they were (R38). -/
theorem systemStep_frame {j k : Nat} (hjk : j ≠ k) {y z : System} (h : systemStep j y = .next z) :
    z.insts.length = y.insts.length ∧ z.insts[k]? = y.insts[k]? := by
  rcases systemStep_next_iff.1 h with ⟨-, rfl⟩ | ⟨s, t, -, -, rfl⟩
  · exact ⟨rfl, rfl⟩
  · exact ⟨List.length_set, List.getElem?_set_ne hjk⟩

/-- Settles O58: what core k answers depends on core k alone, and replacements at two places commute. -/
theorem instancesAreIndependent : Obligations.InstancesAreIndependent := by
  intro y y₁ y₂ j k hjk
  refine ⟨systemStep_frame hjk, fun hj hk => ?_⟩
  have hsame := (systemStep_frame hjk hj).2
  rcases systemStep_next_iff.1 hk with ⟨hnone, rfl⟩ | ⟨s, t, hs, hstep, rfl⟩
  · exact ⟨y, systemStep_next_iff.2 (.inl ⟨hsame ▸ hnone, rfl⟩), hj⟩
  · rw [hsame] at hs
    refine ⟨_, systemStep_next_iff.2 (.inr ⟨s, t, hs, hstep, rfl⟩), systemStep_next_iff.2 ?_⟩
    rcases systemStep_next_iff.1 hj with ⟨hnone, rfl⟩ | ⟨u, v, hu, hustep, rfl⟩
    · exact .inl ⟨by simpa using hnone, rfl⟩
    · refine .inr ⟨u, v, ?_, hustep, ?_⟩
      · rwa [List.getElem?_set_ne hjk.symm]
      · rw [List.set_comm _ _ hjk]

/-! ## Windows of a system -/

theorem inWindow_iff {s : State} {addr : Int} :
    inWindow s addr = true ↔ (s.cfg.base : Int) ≤ addr ∧ addr < s.cfg.base + 0x80 := by
  simp [inWindow]

/-- Two windows at multiples of 0x80 that share an address have one BASE (R10, R51). -/
theorem base_eq_of_inWindow {s u : State} {addr : Int} (hs : configWf s.cfg = true) (hu : configWf u.cfg = true)
    (hsaddr : inWindow s addr = true) (huaddr : inWindow u addr = true) : s.cfg.base = u.cfg.base := by
  simp only [configWf, Bool.and_eq_true, decide_eq_true_eq] at hs hu
  rw [inWindow_iff] at hsaddr huaddr
  omega

/-- In an admitted system an address lies in one window at most (R10, R248). -/
theorem window_unique {y : System} (hy : systemWf y = true) {j k : Nat} {s u : State} {addr : Int}
    (hj : y.insts[j]? = some s) (hk : y.insts[k]? = some u) (hs : inWindow s addr = true)
    (hu : inWindow u addr = true) : j = k := by
  simp only [systemWf, Bool.and_eq_true, List.all_eq_true, decide_eq_true_eq] at hy
  obtain ⟨⟨-, hconfig⟩, hnodup⟩ := hy
  have hbase := base_eq_of_inWindow (hconfig s (List.mem_of_getElem? hj)) (hconfig u (List.mem_of_getElem? hk)) hs hu
  have hlt : j < (y.insts.map fun s => s.cfg.base).length := by
    rw [List.length_map]
    exact (List.getElem?_eq_some_iff.1 hj).1
  refine (List.getElem?_inj hlt hnodup).1 ?_
  rw [List.getElem?_map, List.getElem?_map, hj, hk, Option.map_some, Option.map_some, hbase]

/-- In an admitted system the search for a window finds the one that holds the address (R51). -/
theorem findIdx?_inWindow {y : System} (hy : systemWf y = true) {k : Nat} {s : State} {addr : Int}
    (hk : y.insts[k]? = some s) (hs : inWindow s addr = true) :
    y.insts.findIdx? (fun u => inWindow u addr) = some k := by
  obtain ⟨hlt, rfl⟩ := List.getElem?_eq_some_iff.1 hk
  refine List.findIdx?_eq_some_iff_getElem.2 ⟨hlt, hs, fun j hjk hj => ?_⟩
  have hjlt : j < y.insts.length := hjk.trans hlt
  exact hjk.ne (window_unique hy (List.getElem?_eq_getElem hjlt) hk hj hs)

/-- Settles O59: windows do not overlap, so the search finds the one asked for, and only it is changed. -/
theorem accessReachesItsWindow : Obligations.AccessReachesItsWindow := by
  intro y agent a hy
  refine ⟨fun k s hk hs => ?_, fun hnone => ?_⟩
  · refine ⟨_, by rw [systemIssue, findIdx?_inWindow hy hk hs], ?_, fun j hjk => ?_⟩
    · simp [hk]
    · simp [hjk.symm]
  · rw [systemIssue, List.findIdx?_eq_none_iff.2 hnone]

end Sys2Proof.Machine

namespace Sys2Proof.Machine

/-! ## Commands that always succeed -/

/-- Settles O19. -/
theorem nopClearsTheOutcome : Obligations.NopClearsTheOutcome := fun _ _ s =>
  ⟨_, rfl, finish_data s 0 false false, finish_ends rfl rfl rfl rfl rfl rfl⟩

/-- A scalar command leaves its value in RESULT and ends with outcome OK (R26, R235). -/
theorem putResult_ends (v : Byte) (s : State) :
    (finish 0 false false (putResult v s)).data = { s.data with result := v } ∧
      Ends s (finish 0 false false (putResult v s)) 0 false false :=
  ⟨rfl, finish_ends rfl rfl rfl rfl rfl rfl⟩

/-- Settles O20. -/
theorem gfmulWritesResult : Obligations.GfmulWritesResult := fun a b s => ⟨_, rfl, putResult_ends (gfMul a b) s⟩

/-- Settles O21: in a bijection both lookups find what they look for. -/
theorem tableLookupsWriteResult : Obligations.TableLookupsWriteResult := by
  intro a b s hT
  obtain ⟨hdata, hends⟩ := putResult_ends (sboxAt s.cfg.sbox a) s
  obtain ⟨hdata', hends'⟩ := putResult_ends (invSboxAt s.cfg.sbox a) s
  exact ⟨⟨_, _, rfl, hdata, hends, getElem?_sboxAt hT a⟩, ⟨_, _, rfl, hdata', hends', getElem?_invSboxAt hT a⟩⟩

/-- Settles O33: the cleared matrix is 0x00 at every place. -/
theorem clearingTheLoaders : Obligations.ClearingTheLoaders := fun _ _ s =>
  ⟨⟨_, Mat.zero, rfl, clearBlock_data s, finish_ends rfl rfl rfl rfl rfl rfl, Mat.zero_get⟩,
    ⟨_, Mat.zero, rfl, clearKey_data s, finish_ends rfl rfl rfl rfl rfl rfl, Mat.zero_get⟩⟩

/-! ## The stage functions, place by place -/

/-- R124, by the table itself. -/
theorem getElem?_subBytes {T : List Byte} (hT : sboxBijective T = true) (S : Mat) (r c : Fin 4) :
    T[(S.get r c).toNat]? = some ((subBytes T S).get r c) := by
  rw [subBytes, Mat.get_ofFn, getElem?_sboxAt hT]

/-- R125, by the table itself. -/
theorem getElem?_invSubBytes {T : List Byte} (hT : sboxBijective T = true) (S : Mat) (r c : Fin 4) :
    T[((invSubBytes T S).get r c).toNat]? = some (S.get r c) := by
  rw [invSubBytes, Mat.get_ofFn, getElem?_invSboxAt hT]

/-- R170. -/
theorem addRoundKey_get (S K : Mat) (r c : Fin 4) : (addRoundKey S K).get r c = S.get r c ^^^ K.get r c :=
  Mat.get_ofFn _ r c

/-- Settles O22: on a full block SUBB maps STATE by `subBytes` and ISUBB by `invSubBytes`. -/
theorem substitutionOfTheBlock : Obligations.SubstitutionOfTheBlock := fun a b s hT hblk =>
  ⟨exec_onBlock_ends (exec_subb_ok a b hblk) (getElem?_subBytes hT s.block),
    exec_onBlock_ends (exec_isubb_ok a b hblk) (getElem?_invSubBytes hT s.block)⟩

/-- Settles O24: on a full block MIXC maps STATE by `mixColumns` and IMIXC by `invMixColumns`. -/
theorem columnMixOfTheBlock : Obligations.ColumnMixOfTheBlock := fun a b s hblk =>
  ⟨exec_onBlock_ends (exec_mixc_ok a b hblk) (mixColumns_get s.block),
    exec_onBlock_ends (exec_imixc_ok a b hblk) (invMixColumns_get s.block)⟩

/-- Settles O27: on full registers ARK maps STATE by `addRoundKey` with KEY. -/
theorem roundKeyIntoTheBlock : Obligations.RoundKeyIntoTheBlock := fun a b s hblk hkey =>
  exec_onBlock_ends (exec_ark_ok a b hblk hkey) (addRoundKey_get s.block s.key)

/-- `mix_col` of a lane-wise xor (R196). -/
theorem mixCol_xor (x y : Col) : mixCol (Col.ofFn fun r => x.get r ^^^ y.get r) =
    Col.ofFn fun r => (mixCol x).get r ^^^ (mixCol y).get r := by
  simp only [mixCol, Col.ofFn, Col.get, gfMul_xor_left]
  congr 1 <;> ac_rfl

/-- `inv_mix_col` of a lane-wise xor (R196). -/
theorem invMixCol_xor (x y : Col) : invMixCol (Col.ofFn fun r => x.get r ^^^ y.get r) =
    Col.ofFn fun r => (invMixCol x).get r ^^^ (invMixCol y).get r := by
  simp only [invMixCol, Col.ofFn, Col.get, gfMul_xor_left]
  congr 1 <;> ac_rfl

/-- Settles O26: each lane is a sum of products, and the product is additive in the lane. -/
theorem columnMapsAreLinear : Obligations.ColumnMapsAreLinear := fun x y => ⟨mixCol_xor x y, invMixCol_xor x y⟩

/-! ## The pipelines -/

/-- A pipeline leaves its stages in TRACE and the last in STATE, and ends with outcome OK (R210, R211). -/
theorem putStages_ends (g : Stages) (s : State) :
    Ends s (finish 0 false false (putStages g s)) 0 false false ∧
      (finish 0 false false (putStages g s)).data =
        { s.data with trace0 := g.s0, trace1 := g.s1, trace2 := g.s2, trace3 := g.s3, block := g.s3 } :=
  ⟨finish_ends rfl rfl rfl rfl rfl rfl, rfl⟩

/-- Settles O28: each stage of ENC is the stage function of the one before. -/
theorem encryptStages : Obligations.EncryptStages := by
  intro a b s hT hblk hkey
  obtain ⟨hends, hdata⟩ := putStages_ends (encStages s.cfg.sbox s.block s.key) s
  exact ⟨_, _, _, _, _, exec_enc_ok a b hblk hkey, hends, hdata, addRoundKey_get _ _, getElem?_subBytes hT _,
    Mat.get_ofFn _, mixColumns_get _⟩

/-- Settles O29: each stage of DEC is the stage function of the one before. -/
theorem decryptStages : Obligations.DecryptStages := by
  intro a b s hT hblk hkey
  obtain ⟨hends, hdata⟩ := putStages_ends (decStages s.cfg.sbox s.block s.key) s
  exact ⟨_, _, _, _, _, exec_dec_ok a b hblk hkey, hends, hdata, invMixColumns_get _, Mat.get_ofFn _,
    getElem?_invSubBytes hT _, addRoundKey_get _ _⟩

/-- Settles O32: a stage command leaves the counts, KEY and the table, so all four succeed, and STATE has gone through
the stage functions of the pipeline. -/
theorem pipelinesAreTheirStages : Obligations.PipelinesAreTheirStages := fun a b _ hblk hkey =>
  ⟨⟨_, _, _, _, _, exec_enc_ok a b hblk hkey, exec_ark_ok a b hblk hkey, exec_subb_ok a b hblk, exec_shr_ok a b hblk,
      exec_mixc_ok a b hblk, rfl⟩,
    ⟨_, _, _, _, _, exec_dec_ok a b hblk hkey, exec_imixc_ok a b hblk, exec_ishr_ok a b hblk, exec_isubb_ok a b hblk,
      exec_ark_ok a b hblk hkey, rfl⟩⟩

/-! ## The outcome of every command -/

/-- The commands that check the block length only do it before a change of STATE (R231). -/
theorem exec_eq_checkBlock {i : Instr} (hi : checksBlockOnly i = true) (s : State) :
    ∃ f, exec i s = checkBlock (onBlock f) s := by
  cases i with
  | subb | isubb | shr | ishr | mixc | imixc => exact ⟨_, rfl⟩
  | _ => cases hi

/-- ARK, ENC and DEC check both lengths (R231). -/
theorem exec_eq_checkBlockAndKey {i : Instr} (hi : checksBlockAndKey i = true) (s : State) :
    ∃ f, exec i s = checkBlockAndKey f s := by
  cases i with
  | ark | enc | dec => exact ⟨_, rfl⟩
  | _ => cases hi

/-- A legal command that checks no length succeeds (R235). -/
theorem exec_unchecked {i : Instr} (hi : legalCommand i = true) (hblk : checksBlockOnly i = false)
    (hboth : checksBlockAndKey i = false) (s : State) : ∃ u, exec i s = .next (finish 0 false false u) := by
  cases i with
  | nop | gfmul | sbox | isbox | clrb | clrk => exact ⟨_, rfl⟩
  | subb | isubb | shr | ishr | mixc | imixc => cases hblk
  | ark | enc | dec => cases hboth
  | _ => cases hi

/-- Settles O35: a failed check ends the command with its outcome and changes no register. -/
theorem wrongLengthsFail : Obligations.WrongLengthsFail := by
  refine fun i s => ⟨fun hi hwrong => ?_, fun hi hwrong => ?_⟩
  · obtain ⟨f, hexec⟩ := exec_eq_checkBlock hi s
    exact ⟨_, hexec.trans (checkBlock_wrong hwrong _), finish_data .., finish_ends rfl rfl rfl rfl rfl rfl⟩
  · obtain ⟨f, hexec⟩ := exec_eq_checkBlockAndKey hi s
    exact ⟨_, hexec.trans (checkBlockAndKey_wrong hwrong _), finish_data .., finish_ends rfl rfl rfl rfl rfl rfl⟩

/-- A command finds a count wrong that it checks (R231). -/
def LengthWrong (i : Instr) (s : State) : Prop :=
  ((checksBlockOnly i = true ∨ checksBlockAndKey i = true) ∧ s.blkCnt ≠ 16) ∨
    (checksBlockAndKey i = true ∧ s.keyCnt ≠ 16)

/-- A wrong count that is checked makes the outcome INVALID_LENGTH (R231, R233). -/
theorem exec_lengthWrong {i : Instr} {s : State} (h : LengthWrong i s) :
    ∃ t, exec i s = .next t ∧ t.err = 1 := by
  obtain ⟨hblock, hboth⟩ := wrongLengthsFail i s
  rcases h with ⟨hi | hi, hwrong⟩ | ⟨hi, hwrong⟩
  · obtain ⟨t, ht, -, herr, -⟩ := hblock hi hwrong
    exact ⟨t, ht, herr⟩
  · obtain ⟨t, ht, -, herr, -⟩ := hboth hi (.inl hwrong)
    exact ⟨t, ht, herr⟩
  · obtain ⟨t, ht, -, herr, -⟩ := hboth hi (.inr hwrong)
    exact ⟨t, ht, herr⟩

/-- A legal command that finds no count wrong succeeds (R235). -/
theorem exec_lengthRight {i : Instr} (hi : legalCommand i = true) {s : State} (h : ¬ LengthWrong i s) :
    ∃ u, exec i s = .next (finish 0 false false u) := by
  cases hboth : checksBlockAndKey i with
  | true =>
    obtain ⟨f, hexec⟩ := exec_eq_checkBlockAndKey hboth s
    have hcounts : s.blkCnt = 16 ∧ s.keyCnt = 16 := by
      unfold LengthWrong at h
      tauto
    exact ⟨_, hexec.trans (checkBlockAndKey_ok hcounts.1 hcounts.2 f)⟩
  | false =>
    cases hblock : checksBlockOnly i with
    | true =>
      obtain ⟨f, hexec⟩ := exec_eq_checkBlock hblock s
      have hcount : s.blkCnt = 16 := by
        unfold LengthWrong at h
        tauto
      exact ⟨_, hexec.trans (checkBlock_ok hcount _)⟩
    | false => exact exec_unchecked hi hblock hboth s

/-- Every command answers a next state, in IDLE and with OVF as before (R235). -/
theorem exec_command_ends {i : Instr} (hi : i.isCommand = true) (s : State) :
    ∃ t, exec i s = .next t ∧ t.phase = .idle ∧ t.ovf = s.ovf := by
  obtain ⟨u, e, lb, lk, hexec, heffect⟩ := exec_command hi s
  exact ⟨_, hexec, rfl, heffect.ovf⟩

/-- Settles O36: every command ends, and which of the three outcomes it has is decided by the word and the counts. -/
theorem everyCommandHasOneOutcome : Obligations.EveryCommandHasOneOutcome := by
  intro i s hi
  obtain ⟨t, hexec, hphase, hovf⟩ := exec_command_ends hi s
  refine ⟨t, hexec, hphase, hovf, fun hillegal => ?_, fun hlegal hwrong => ?_, fun hlegal hright => ?_⟩
  · cases hexec.symm.trans (exec_illegal hi hillegal s)
    exact ⟨rfl, rfl, rfl⟩
  · obtain ⟨u, hu, herr⟩ := exec_lengthWrong hwrong
    cases hexec.symm.trans hu
    exact herr
  · obtain ⟨u, hu⟩ := exec_lengthRight hlegal hright
    cases hexec.symm.trans hu
    exact ⟨rfl, rfl, rfl⟩

end Sys2Proof.Machine

namespace Sys2Proof.Machine

/-! ## The loaders -/

/-- A write of BLK_DATA while BUSY = 0 (R140). -/
theorem exec_wrBlkData_idle {s : State} (hb : s.busy = false) (v : Word) :
    exec (.wrBlkData v) s = .next (loadBlock v s) := by
  simp [exec, execWrBlkData, hb]

/-- A write of BLK_DATA while BUSY = 1 (R58). -/
theorem exec_wrBlkData_busy {s : State} (hb : s.busy = true) (v : Word) :
    exec (.wrBlkData v) s = .next (dropWrite s) := by
  simp [exec, execWrBlkData, hb]

/-- A write of KEY_DATA while BUSY = 0 (R141). -/
theorem exec_wrKeyData_idle {s : State} (hb : s.busy = false) (v : Word) :
    exec (.wrKeyData v) s = .next (loadKey v s) := by
  simp [exec, execWrKeyData, hb]

/-- A write of KEY_DATA while BUSY = 1 (R58). -/
theorem exec_wrKeyData_busy {s : State} (hb : s.busy = true) (v : Word) :
    exec (.wrKeyData v) s = .next (dropWrite s) := by
  simp [exec, execWrKeyData, hb]

theorem dropWrite_keepsControl (s : State) : KeepsControl s (dropWrite s) := by simp [KeepsControl]

theorem loadBlock_keepsControl (v : Word) (s : State) : KeepsControl s (loadBlock v s) := by simp [KeepsControl]

theorem loadKey_keepsControl (v : Word) (s : State) : KeepsControl s (loadKey v s) := by simp [KeepsControl]

/-- Settles O37: while BUSY = 1 the write is dropped, while BUSY = 0 the byte goes where the count says. -/
theorem blockLoaderWrite : Obligations.BlockLoaderWrite := by
  intro v s
  cases hb : s.busy with
  | true =>
    exact ⟨_, s.block, s.blkCnt, exec_wrBlkData_busy hb v, rfl, dropWrite_keepsControl s, rfl,
      fun _ => ⟨rfl, rfl, rfl⟩, nofun⟩
  | false =>
    exact ⟨_, _, _, exec_wrBlkData_idle hb v, rfl, loadBlock_keepsControl v s, rfl, nofun,
      fun _ => ⟨rfl, countByte_toNat s.blkCnt, fun _ hi => loadByte_flat s.block s.blkCnt (dataByte v) hi⟩⟩

/-- Settles O38, as O37 with KEY and KEY_CNT. -/
theorem keyLoaderWrite : Obligations.KeyLoaderWrite := by
  intro v s
  cases hb : s.busy with
  | true =>
    exact ⟨_, s.key, s.keyCnt, exec_wrKeyData_busy hb v, rfl, dropWrite_keepsControl s, rfl,
      fun _ => ⟨rfl, rfl, rfl⟩, nofun⟩
  | false =>
    exact ⟨_, _, _, exec_wrKeyData_idle hb v, rfl, loadKey_keepsControl v s, rfl, nofun,
      fun _ => ⟨rfl, countByte_toNat s.keyCnt, fun _ hi => loadByte_flat s.key s.keyCnt (dataByte v) hi⟩⟩

/-! ## A block or a key of any length -/

/-- A loader's matrix after n writes in a row. -/
def loadBytes : List Word → Mat → BitVec 5 → Mat
  | [], S, _ => S
  | v :: vs, S, cnt => loadBytes vs (loadByte S cnt (dataByte v)) (countByte cnt)

/-- A loader's count after n writes in a row. -/
def countBytes : List Word → BitVec 5 → BitVec 5
  | [], cnt => cnt
  | _ :: vs, cnt => countBytes vs (countByte cnt)

/-- The count goes up by one a write and saturates at 31 (R24). -/
theorem countBytes_toNat (vs : List Word) (cnt : BitVec 5) :
    (countBytes vs cnt).toNat = min (cnt.toNat + vs.length) 31 := by
  induction vs generalizing cnt with
  | nil =>
    have := cnt.isLt
    simp only [countBytes, List.length_nil]
    omega
  | cons v vs ih =>
    rw [countBytes, ih, countByte_toNat, List.length_cons]
    omega

/-- From count c on the bytes stand in index order; below c, and past the last one written, nothing changes (R142). -/
theorem loadBytes_flat (vs : List Word) (S : Mat) (cnt : BitVec 5) {i : Nat} (hi : i < 16) :
    (loadBytes vs S cnt).flat i =
      if i < cnt.toNat then S.flat i else ((vs.map dataByte)[i - cnt.toNat]?).getD (S.flat i) := by
  induction vs generalizing S cnt with
  | nil => simp [loadBytes]
  | cons v vs ih =>
    rw [loadBytes, ih, countByte_toNat, loadByte_flat S cnt _ hi]
    rcases Nat.lt_trichotomy i cnt.toNat with hlt | heq | hgt
    · rw [if_pos (by omega), if_neg (by omega), if_pos hlt]
    · rw [if_pos (by omega), if_pos heq, if_neg (by omega), heq, Nat.sub_self, List.map_cons]
      rfl
    · have hindex : i - cnt.toNat = i - (cnt.toNat + 1) + 1 := by omega
      rw [if_neg (by omega), if_neg (by omega), if_neg (by omega), Nat.min_eq_left (by omega), hindex, List.map_cons,
        List.getElem?_cons_succ]

/-- The step that takes a write of BLK_DATA in IDLE (R140). -/
theorem step_loadBlock {s : State} {agent : Nat} {v : Word} {rest : List Input} (hidle : s.phase = .idle)
    (h : NextAccess s agent (.write .word 0x10 v) rest) : step s = .next (loadBlock v (takenBy agent s)) := by
  rw [step_nextAccess h, hostAccess_window (i := .wrBlkData v) rfl rfl,
    exec_wrBlkData_idle (busy_eq_false_iff.2 hidle : (takenBy agent s).busy = false)]

/-- The step that takes a write of KEY_DATA in IDLE (R141). -/
theorem step_loadKey {s : State} {agent : Nat} {v : Word} {rest : List Input} (hidle : s.phase = .idle)
    (h : NextAccess s agent (.write .word 0x14 v) rest) : step s = .next (loadKey v (takenBy agent s)) := by
  rw [step_nextAccess h, hostAccess_window (i := .wrKeyData v) rfl rfl,
    exec_wrKeyData_idle (busy_eq_false_iff.2 hidle : (takenBy agent s).busy = false)]

/-- n writes of BLK_DATA in a row in IDLE change STATE and BLK_CNT, take their inputs and leave the host known. -/
theorem runs_loadBlock {vs : List Word} {s : State} {agent : Nat} (hidle : s.phase = .idle)
    (hown : s.owner = none ∨ s.owner = some agent)
    (hin : s.inputs = vs.map fun v => .access agent (.write .word 0x10 v)) :
    ∃ o, runs vs.length s = .next { s with
      block := loadBytes vs s.block s.blkCnt, blkCnt := countBytes vs s.blkCnt, inputs := [], owner := o } := by
  induction vs generalizing s with
  | nil =>
    refine ⟨s.owner, ?_⟩
    cases s
    cases hin
    rfl
  | cons v vs ih =>
    have hnext : NextAccess s agent (.write .word 0x10 v) _ := ⟨hin, hown⟩
    obtain ⟨o, ho⟩ := ih (s := loadBlock v (takenBy agent s)) hidle (.inr rfl) (by simp [takenBy, hin])
    exact ⟨o, (runs_succ_next (step_loadBlock hidle hnext) _).trans ho⟩

/-- n writes of KEY_DATA in a row in IDLE change KEY and KEY_CNT, take their inputs and leave the host known. -/
theorem runs_loadKey {vs : List Word} {s : State} {agent : Nat} (hidle : s.phase = .idle)
    (hown : s.owner = none ∨ s.owner = some agent)
    (hin : s.inputs = vs.map fun v => .access agent (.write .word 0x14 v)) :
    ∃ o, runs vs.length s = .next { s with
      key := loadBytes vs s.key s.keyCnt, keyCnt := countBytes vs s.keyCnt, inputs := [], owner := o } := by
  induction vs generalizing s with
  | nil =>
    refine ⟨s.owner, ?_⟩
    cases s
    cases hin
    rfl
  | cons v vs ih =>
    have hnext : NextAccess s agent (.write .word 0x14 v) _ := ⟨hin, hown⟩
    obtain ⟨o, ho⟩ := ih (s := loadKey v (takenBy agent s)) hidle (.inr rfl) (by simp [takenBy, hin])
    exact ⟨o, (runs_succ_next (step_loadKey hidle hnext) _).trans ho⟩

/-- From a cleared matrix and count 0: the bytes in index order and 0x00 behind them (R37, R142). -/
theorem loadBytes_cleared {S : Mat} {cnt : BitVec 5} (hcnt : cnt = 0) (hS : ∀ r c : Fin 4, S.get r c = 0)
    (vs : List Word) : (countBytes vs cnt).toNat = min vs.length 31 ∧
      ∀ i, i < 16 → (loadBytes vs S cnt).flat i = ((vs.map fun v => v.extractLsb' 0 8)[i]?).getD 0 := by
  subst hcnt
  refine ⟨(countBytes_toNat vs 0).trans (congrArg (min · 31) (Nat.zero_add _)), fun i hi => ?_⟩
  rw [loadBytes_flat vs S 0 hi, show S.flat i = 0 from hS _ _]
  rfl

/-- Settles O39: the run is `loadBytes` and `countBytes` from a cleared matrix and count 0. -/
theorem blockLoadedInOrder : Obligations.BlockLoadedInOrder := by
  refine fun vs s agent hidle hown => ⟨fun hcnt hS hin => ?_, fun hcnt hS hin => ?_⟩
  · obtain ⟨o, hrun⟩ := runs_loadBlock hidle hown hin
    obtain ⟨hcount, hflat⟩ := loadBytes_cleared hcnt hS vs
    exact ⟨_, _, _, hrun, rfl, hcount, hflat, rfl, rfl, rfl, rfl, hidle, rfl, rfl, rfl, rfl, rfl⟩
  · obtain ⟨o, hrun⟩ := runs_loadKey hidle hown hin
    obtain ⟨hcount, hflat⟩ := loadBytes_cleared hcnt hS vs
    exact ⟨_, _, _, hrun, rfl, hcount, hflat, rfl, rfl, rfl, rfl, hidle, rfl, rfl, rfl, rfl, rfl⟩

/-! ## make_state and flatten -/

/-- Flat byte i of `make_state(b)` is byte i of b (R61, R142). -/
theorem makeState_flat (b : List Byte) {i : Nat} (hi : i < 16) : (makeState b).flat i = b.getD i 0 := by
  have hindex : (flatRow i).val + 4 * (flatCol i).val = i := by
    simp only [flatRow, flatCol, Fin.val_ofNat]
    omega
  rw [makeState, Mat.flat, Mat.get_ofFn, hindex]

/-- Byte i of `flatten(S)` is flat byte i of S (R61, R150). -/
theorem flatten_getD (S : Mat) {i : Nat} (hi : i < 16) : (flatten S).getD i 0 = S.flat i := by
  simp [flatten, List.getD, hi]

/-- Settles O40: both sides agree at each of the sixteen flat indices. -/
theorem flattenMakeState : Obligations.FlattenMakeState := by
  refine ⟨fun b hb => List.ext_getElem (by simp [flatten, hb]) fun i hi hib => ?_, fun S => Mat.ext_get fun r c => ?_⟩
  · have h16 : i < 16 := hb ▸ hib
    simp [flatten, makeState_flat b h16, hib]
  · rw [makeState, Mat.get_ofFn, flatten_getD S (by omega), Nat.add_comm, S.flat_four_mul_add, Mat.get]

/-! ## Reads of STATUS and of the offsets that read 0 -/

section
variable (s : State)

/-- BUSY stands in bit 0 (R152). -/
theorem statusWord_busy : (statusWord s).getLsbD 0 = s.busy := by
  simp only [statusWord, BitVec.getLsbD_append]
  simp

/-- OVF stands in bit 1 (R152). -/
theorem statusWord_ovf : (statusWord s).getLsbD 1 = s.ovf := by
  simp only [statusWord, BitVec.getLsbD_append]
  simp

/-- LENB stands in bit 8 (R152). -/
theorem statusWord_lenb : (statusWord s).getLsbD 8 = s.lenb := by
  simp only [statusWord, BitVec.getLsbD_append]
  simp

/-- LENK stands in bit 9 (R152). -/
theorem statusWord_lenk : (statusWord s).getLsbD 9 = s.lenk := by
  simp only [statusWord, BitVec.getLsbD_append]
  simp

/-- ERR stands in bits 7:4 (R152). -/
theorem statusWord_err : (statusWord s).extractLsb' 4 4 = s.err :=
  (BitVec.extractLsb'_append_eq_of_le (by decide)).trans
    ((BitVec.extractLsb'_append_eq_of_le (by decide)).trans (extractLsb'_append_middle _ s.err 0#2))

/-- Bits 3:2 of STATUS read 0 (R152). -/
theorem statusWord_reservedLow : (statusWord s).extractLsb' 2 2 = 0#2 :=
  (BitVec.extractLsb'_append_eq_of_le (by decide)).trans (extractLsb'_append_middle _ 0#2 (BitVec.ofBool s.ovf))

/-- Bits 31:10 of STATUS read 0 (R152). -/
theorem statusWord_reservedHigh : (statusWord s).extractLsb' 10 22 = 0#22 := by
  iterate 5 refine (BitVec.extractLsb'_append_eq_of_le (by decide)).trans ?_
  exact BitVec.extractLsb'_append_eq_left

end

/-- ERR holds a reserved code from 3 on (R30). -/
theorem errReserved_iff {s : State} : errReserved s = true ↔ 3 ≤ s.err.toNat := decide_eq_true_iff

/-- Settles O41: the read delivers `statusWord`, whose fields are the registers, or finds a reserved code. -/
theorem readStatus : Obligations.ReadStatus := by
  refine fun s => ⟨fun hlegal => ?_, fun hreserved => if_pos (errReserved_iff.2 hreserved)⟩
  have hexec : exec .rdStatus s = .next (deliver (statusWord s) s) :=
    if_neg fun hreserved => absurd (errReserved_iff.1 hreserved) (by omega)
  exact ⟨_, _, hexec, deliver_returns _ s, statusWord_busy s, statusWord_ovf s, statusWord_reservedLow s,
    statusWord_err s, statusWord_lenb s, statusWord_lenk s, statusWord_reservedHigh s⟩

/-- Settles O44: R54's offsets decode to the read that delivers 0. -/
theorem reservedOffsetsReadZero : Obligations.ReservedOffsetsReadZero := fun _ s hoff =>
  ⟨decode_readZero hoff, _, rfl, deliver_returns 0 s⟩

/-! ## A repeated read -/

/-- A read of a register in IDLE delivers its word, and repeated delivers it again, where a delivery does not change that
word (R60). -/
theorem exec_readRegister_repeated {i : Instr} {f : State → Word} {s t : State}
    (hexec : ∀ u, exec i u = .next (readRegister (f u) u)) (hf : f (deliver (f s) s) = f s) (hidle : s.busy = false)
    (h : exec i s = .next t) : ∃ w, t = deliver w s ∧ exec i t = .next (deliver w t) := by
  rw [hexec, readRegister_idle hidle] at h
  cases h
  exact ⟨f s, rfl, by rw [hexec, hf, readRegister_idle (s := deliver (f s) s) hidle]⟩

/-- A read in IDLE that goes on delivers a word, and repeated delivers it again (R60). -/
theorem exec_read_repeated (n : Nat) {s t : State} (hidle : s.busy = false) (h : exec (decodeRead n) s = .next t) :
    ∃ w, t = deliver w s ∧ exec (decodeRead n) t = .next (deliver w t) := by
  unfold decodeRead at h ⊢
  split_ifs at h ⊢
  · simp only [exec, execRdStatus] at h
    split at h
    · cases h
    · cases h
      exact ⟨_, rfl, if_neg ‹_›⟩
  · exact exec_readRegister_repeated (f := resultWord) (fun _ => rfl) rfl hidle h
  · exact exec_readRegister_repeated (f := countWord) (fun _ => rfl) rfl hidle h
  · exact exec_readRegister_repeated (f := (stateWord · _)) (fun _ => rfl) rfl hidle h
  · exact exec_readRegister_repeated (f := (traceWord · _ _)) (fun _ => rfl) rfl hidle h
  · cases h
    exact ⟨0, rfl, rfl⟩

/-- Settles O46: the access decodes to a read, which delivers the same word again. -/
theorem readsAreIdempotent : Obligations.ReadsAreIdempotent := by
  intro off s t hidle h
  cases hcheck : checkAccess .word off with
  | error e =>
    rw [(hostAccess_checkAccess_error hcheck 0 s).1] at h
    cases h
  | ok n =>
    have hd : decode (.read .word off) = .ok (decodeRead n) := by rw [decode_read, hcheck]; rfl
    rw [hostAccess_window hd (decodeRead_not_command n)] at h
    obtain ⟨w, rfl, hagain⟩ := exec_read_repeated n hidle h
    obtain ⟨hdata, hcontrol, hovf, v, hreads, -⟩ := deliver_returns w s
    exact ⟨⟨hdata, hcontrol, hovf, v, hreads, nofun⟩, _,
      (hostAccess_window hd (decodeRead_not_command n) _).trans hagain, rfl⟩

end Sys2Proof.Machine

namespace Sys2Proof.Machine

/-! ## The assembler -/

/-- A command that uses A only assembles to R80's word with B = 0, and is rejected with another B (R89). -/
theorem assemble_of_unusedB {i : Instr} {op : Nibble} {a b : Byte} (hi : assembles i = (b == 0))
    (hword : i.commandWord? = some (cmdWord op a b)) :
    assemble i = if b = 0 then some (commandFormula (op.setWidth 32) a 0) else none := by
  rw [assemble, hi, hword, commandFormula_eq_cmdWord]
  by_cases hb : b = 0
  · simp [hb]
  · rw [if_neg hb, if_neg (by simpa using hb)]

/-- A command that uses neither operand assembles to the word of its opcode, and is rejected with an operand (R89). -/
theorem assemble_of_unused {i : Instr} {op : Nibble} {a b : Byte} {w : Word}
    (hi : assembles i = (a == 0 && b == 0)) (hword : i.commandWord? = some (cmdWord op a b))
    (hzero : cmdWord op 0 0 = w) : assemble i = if a = 0 ∧ b = 0 then some w else none := by
  rw [assemble, hi, hword, ← hzero]
  by_cases hab : a = 0 ∧ b = 0
  · simp [hab]
  · rw [if_neg hab, if_neg (by simpa using hab)]

/-- The assembler accepts legal commands only (R89). -/
theorem assemble_of_not_legal {i : Instr} (hi : legalCommand i = false) : assemble i = none := by
  cases i with
  | reservedOp | reservedFields | wrBlkData | wrKeyData | rdStatus | rdResult | rdCount | rdStateW | rdTraceW
  | rdZero | wrIgnored => rfl
  | _ => cases hi

/-- Settles O60: each mnemonic by which operands it uses, each expansion by its definition. -/
theorem assemblerWords : Obligations.AssemblerWords := by
  refine ⟨fun a b => congrArg some (commandFormula_eq_cmdWord 1 a b).symm,
    fun a b => assemble_of_unusedB (op := 2) rfl rfl, fun a b => assemble_of_unusedB (op := 3) rfl rfl,
    fun a b p hp => ?_, fun i => assemble_of_not_legal,
    fun i w x l hw => ?_, fun i x l hnone => ?_, fun _ => rfl, fun _ => rfl, fun _ _ => rfl, fun _ => rfl,
    fun _ => rfl, fun _ => rfl, fun _ _ => rfl⟩
  · simp only [List.mem_cons, List.not_mem_nil, or_false] at hp
    rcases hp with rfl | rfl | rfl | rfl | rfl | rfl | rfl | rfl | rfl | rfl | rfl | rfl <;>
      exact assemble_of_unused rfl rfl rfl
  · simp [expand, expandPoll, hw]
  · simp [expand, hnone]

end Sys2Proof.Machine

namespace Sys2Proof.Machine
open Polynomial

/-! ## The multiplier as a product of polynomials -/

/-- x^8+x^4+x^3+x+1 (R8, R100). -/
noncomputable def fieldPoly : (ZMod 2)[X] := X ^ 8 + X ^ 4 + X ^ 3 + X + 1

/-- A power of X let through by a bit. -/
noncomputable def bitTerm (c : Bool) (n : ℕ) : (ZMod 2)[X] := if c then X ^ n else 0

theorem bitTerm_xor (c d : Bool) (n : ℕ) : bitTerm (c ^^ d) n = bitTerm c n + bitTerm d n := by
  cases c <;> cases d <;> simp [bitTerm, CharTwo.add_self_eq_zero]

theorem X_mul_bitTerm (c : Bool) (n : ℕ) : X * bitTerm c n = bitTerm c (n + 1) := by
  cases c <;> simp [bitTerm, pow_succ']

/-- The polynomial of a Byte is the sum of its eight terms. -/
theorem bytePoly_eq_sum (a : Byte) : bytePoly a = ∑ n ∈ Finset.range 8, bitTerm (a.getLsbD n) n := by
  rw [Finset.sum_range, bytePoly]
  simp [Fin.sum_univ_succ, List.range_succ, bitTerm]

/-- The sum of Bytes is the sum of their polynomials. -/
theorem bytePoly_xor (a b : Byte) : bytePoly (a ^^^ b) = bytePoly a + bytePoly b := by
  simp only [bytePoly_eq_sum, BitVec.getLsbD_xor, bitTerm_xor, Finset.sum_add_distrib]

theorem bytePoly_one : bytePoly 1 = 1 := by
  simp [bytePoly_eq_sum, bitTerm]

/-- The reduction constant is the field polynomial without its highest term (R100). -/
theorem bytePoly_reduction : bytePoly reduction + X ^ 8 = fieldPoly := by
  simp [bytePoly_eq_sum, bitTerm, Finset.sum_range_succ, reduction, fieldPoly]
  ring

/-- A left shift is a product by X, but for the bit shifted out. -/
theorem bytePoly_shiftLeft (a : Byte) : bytePoly (a <<< 1) + bitTerm (a.getLsbD 7) 8 = X * bytePoly a := by
  have hlow : bitTerm ((a <<< 1).getLsbD 0) 0 = 0 := by simp [bitTerm]
  have hrest : ∀ n ∈ Finset.range 7, (a <<< 1).getLsbD (n + 1) = a.getLsbD n := by
    intro n hn
    have hlt : n < 7 := Finset.mem_range.1 hn
    rw [BitVec.getLsbD_shiftLeft, Nat.add_sub_cancel, decide_eq_true (by omega), decide_eq_false (by omega)]
    rfl
  rw [bytePoly_eq_sum, bytePoly_eq_sum, Finset.mul_sum, Finset.sum_range_succ', Finset.sum_range_succ _ 7, hlow,
    add_zero]
  simp only [X_mul_bitTerm]
  rw [Finset.sum_congr rfl fun n hn => by rw [hrest n hn]]

/-! ## Bytes as residues modulo the field polynomial -/

/-- The residue class of a Byte's polynomial. -/
noncomputable def residue (a : Byte) : AdjoinRoot fieldPoly := AdjoinRoot.mk fieldPoly (bytePoly a)

theorem residue_xor (a b : Byte) : residue (a ^^^ b) = residue a + residue b := by
  rw [residue, bytePoly_xor, map_add, residue, residue]

theorem residue_one : residue 1 = 1 := by
  rw [residue, bytePoly_one, map_one]

/-- The reduction constant stands for x^8 (R100). -/
theorem residue_reduction : residue reduction = AdjoinRoot.mk fieldPoly (X ^ 8) := by
  have h : bytePoly reduction - X ^ 8 = fieldPoly := by rw [CharTwo.sub_eq_add, bytePoly_reduction]
  exact AdjoinRoot.mk_eq_mk.2 (h ▸ dvd_rfl)

/-- The conditional xor of R100 puts the bit shifted out back in. -/
theorem residue_gate_reduction (c : Bool) : residue (gate c reduction) = AdjoinRoot.mk fieldPoly (bitTerm c 8) := by
  cases c with
  | false => simp [residue, bytePoly_eq_sum, bitTerm]
  | true => exact residue_reduction

/-- One shift of R100 is a product by X. -/
theorem residue_xtime (a : Byte) : residue (xtime a) = AdjoinRoot.root fieldPoly * residue a := by
  rw [xtime_eq, residue_xor, residue_gate_reduction, residue, residue, ← map_add, bytePoly_shiftLeft, map_mul,
    AdjoinRoot.mk_X]

/-- `gf_mul` is the product of residues (R100). -/
theorem residue_gfMul (a b : Byte) : residue (gfMul a b) = residue a * residue b := by
  induction a using byte_induction with
  | one => rw [gfMul_one_left, residue_one, one_mul]
  | add x y ihx ihy => rw [gfMul_xor_left, residue_xor, ihx, ihy, residue_xor, add_mul]
  | shift x ihx => rw [gfMul_xtime_left, residue_xtime, ihx, residue_xtime, mul_assoc]

/-- Settles O18: the two sides have one residue, so they differ by a multiple of the field polynomial. -/
theorem multiplierIsPolynomialProduct : Obligations.MultiplierIsPolynomialProduct := by
  intro a b
  have hmk : AdjoinRoot.mk fieldPoly (bytePoly a * bytePoly b) = AdjoinRoot.mk fieldPoly (bytePoly (gfMul a b)) :=
    (map_mul _ _ _).trans (residue_gfMul a b).symm
  obtain ⟨q, hq⟩ := AdjoinRoot.mk_eq_mk.1 hmk
  exact ⟨q, by rw [← fieldPoly, mul_comm q, ← hq]; ring⟩

end Sys2Proof.Machine
